-- ==== Sys2Proof/Word.lean ====
section
/-! DEFINITION. The word types of the CHIP-8 core: the widths that 10_state.md R20 to R31 and 30_encoding.md R71 give. -/

namespace Sys2Proof

/-- An 8-bit value: a register V0 to VF, a timer, a memory cell, the immediate `kk` (10_state.md R21, R29, R30). -/
abbrev Byte := BitVec 8

/-- A 16-bit value: an instruction word, `I`, `pc`, a stack slot (10_state.md R25, R27, R28; 30_encoding.md R70). -/
abbrev Word := BitVec 16

/-- A 4-bit sub-field of an instruction word (00_scope.md R11). -/
abbrev Nibble := BitVec 4

/-- The 12-bit address field `nnn` of an instruction word (30_encoding.md R71). -/
abbrev Addr := BitVec 12

/-- The index of a general register, 0 to 15 (10_state.md R21). -/
abbrev RegIdx := BitVec 4

/-- A logical key code, 0x0 to 0xF (60_exceptions.md R260). -/
abbrev Key := BitVec 4

end Sys2Proof
end

