-- ==== Sys2Proof/Syntax.lean ====
section
/-! DEFINITION. The instructions: one constructor per row of spec/opcode_table.json (30_encoding.md R74), in the
table's order, named by the decoder's variant names. The operands have exactly the widths of 30_encoding.md R71. -/

namespace Sys2Proof

/-- The 34 variants of 30_encoding.md R74. Ignored fields that the table lists are kept as operands, so that an
instruction stands for one word (log entry 8): `i` of `5xyi` and `9xyi` (R79), `y` of the two shifts. -/
inductive Instr where
  | clear
  | returnSub
  | jump (nnn : Addr)
  | gotoSub (nnn : Addr)
  | skipEqual (x : RegIdx) (kk : Byte)
  | skipNotEqual (x : RegIdx) (kk : Byte)
  | skipVXEqualVY (x y : RegIdx) (i : Nibble)
  | setVX (x : RegIdx) (kk : Byte)
  | addVX (x : RegIdx) (kk : Byte)
  | move (x y : RegIdx)
  | or (x y : RegIdx)
  | and (x y : RegIdx)
  | xor (x y : RegIdx)
  | addReg (x y : RegIdx)
  | subVYFromVX (x y : RegIdx)
  | shiftRight (x y : RegIdx)
  | subVXFromVY (x y : RegIdx)
  | shiftLeft (x y : RegIdx)
  | skipVXNotEqualVY (x y : RegIdx) (i : Nibble)
  | setI (nnn : Addr)
  | jumpWithOffset (nnn : Addr)
  | random (x : RegIdx) (kk : Byte)
  | draw (x y : RegIdx) (n : Nibble)
  | skipIfKey (x : RegIdx)
  | skipIfNotKey (x : RegIdx)
  | getDT (x : RegIdx)
  | getKey (x : RegIdx)
  | setDT (x : RegIdx)
  | setST (x : RegIdx)
  | addI (x : RegIdx)
  | fontChar (x : RegIdx)
  | bcdConvert (x : RegIdx)
  | storeRegs (x : RegIdx)
  | loadRegs (x : RegIdx)
  deriving DecidableEq, Repr

/-- What the decoder answers (30_encoding.md R73): a variant with its fields, the `None` residue (R80), or the
`Error` sentinel of a top-level family that is not recognized (R81). -/
inductive Decoded where
  | variant (i : Instr)
  | noneWord
  | errorFamily
  deriving DecidableEq, Repr

/-- Why a list of bytes holds no instruction word (30_encoding.md R70: a decoder needs one whole word). -/
inductive DecodeReject where
  | truncated
  deriving DecidableEq, Repr

/-- One row of the decode map of 30_encoding.md R74: a word `w` lies on the row when `w &&& mask = pattern`, and the
row then stands for the variant `make w`. -/
structure OpcodeRow where
  pattern : Word
  mask : Word
  make : Word → Instr

end Sys2Proof
end

