-- ==== Sys2Proof/Decode.lean ====
section
/-! DEFINITION. The decoder of 30_encoding.md R70 to R83, total on any bytes, and the encoder written from the same
encodings. -/

namespace Sys2Proof

/-- `op`, w[15:12] (30_encoding.md R71). -/
def fieldOp (w : Word) : Nibble := w.extractLsb' 12 4

/-- `x`, w[11:8] (30_encoding.md R71). -/
def fieldX (w : Word) : RegIdx := w.extractLsb' 8 4

/-- `y`, w[7:4] (30_encoding.md R71). -/
def fieldY (w : Word) : RegIdx := w.extractLsb' 4 4

/-- `n`, w[3:0] (30_encoding.md R71). -/
def fieldN (w : Word) : Nibble := w.extractLsb' 0 4

/-- `kk`, w[7:0] (30_encoding.md R71). -/
def fieldKK (w : Word) : Byte := w.extractLsb' 0 8

/-- `nnn`, w[11:0] (30_encoding.md R71). -/
def fieldNNN (w : Word) : Addr := w.extractLsb' 0 12

/-- Family 0 is selected on the whole word (30_encoding.md R75). -/
def decodeFamily0 (w : Word) : Decoded :=
  if w = 0x00E0#16 then .variant .clear
  else if w = 0x00EE#16 then .variant .returnSub
  else .noneWord

/-- Family 8 is selected by `n` (30_encoding.md R76). -/
def decodeFamily8 (x y : RegIdx) (n : Nibble) : Decoded :=
  match n.toNat with
  | 0x0 => .variant (.move x y)
  | 0x1 => .variant (.or x y)
  | 0x2 => .variant (.and x y)
  | 0x3 => .variant (.xor x y)
  | 0x4 => .variant (.addReg x y)
  | 0x5 => .variant (.subVYFromVX x y)
  | 0x6 => .variant (.shiftRight x y)
  | 0x7 => .variant (.subVXFromVY x y)
  | 0xE => .variant (.shiftLeft x y)
  | _ => .noneWord

/-- Family E is selected by `kk` (30_encoding.md R77). -/
def decodeFamilyE (x : RegIdx) (kk : Byte) : Decoded :=
  if kk = 0x9E#8 then .variant (.skipIfKey x)
  else if kk = 0xA1#8 then .variant (.skipIfNotKey x)
  else .noneWord

/-- Family F is selected by `kk` (30_encoding.md R78). -/
def decodeFamilyF (x : RegIdx) (kk : Byte) : Decoded :=
  if kk = 0x07#8 then .variant (.getDT x)
  else if kk = 0x0A#8 then .variant (.getKey x)
  else if kk = 0x15#8 then .variant (.setDT x)
  else if kk = 0x18#8 then .variant (.setST x)
  else if kk = 0x1E#8 then .variant (.addI x)
  else if kk = 0x29#8 then .variant (.fontChar x)
  else if kk = 0x33#8 then .variant (.bcdConvert x)
  else if kk = 0x55#8 then .variant (.storeRegs x)
  else if kk = 0x65#8 then .variant (.loadRegs x)
  else .noneWord

/-- The decode algorithm of 30_encoding.md R83. The last arm is the `Error` sentinel of a family that is not
recognized, which no word reaches (R81). -/
def decodeWord (w : Word) : Decoded :=
  match (fieldOp w).toNat with
  | 0x0 => decodeFamily0 w
  | 0x1 => .variant (.jump (fieldNNN w))
  | 0x2 => .variant (.gotoSub (fieldNNN w))
  | 0x3 => .variant (.skipEqual (fieldX w) (fieldKK w))
  | 0x4 => .variant (.skipNotEqual (fieldX w) (fieldKK w))
  | 0x5 => .variant (.skipVXEqualVY (fieldX w) (fieldY w) (fieldN w))
  | 0x6 => .variant (.setVX (fieldX w) (fieldKK w))
  | 0x7 => .variant (.addVX (fieldX w) (fieldKK w))
  | 0x8 => decodeFamily8 (fieldX w) (fieldY w) (fieldN w)
  | 0x9 => .variant (.skipVXNotEqualVY (fieldX w) (fieldY w) (fieldN w))
  | 0xA => .variant (.setI (fieldNNN w))
  | 0xB => .variant (.jumpWithOffset (fieldNNN w))
  | 0xC => .variant (.random (fieldX w) (fieldKK w))
  | 0xD => .variant (.draw (fieldX w) (fieldY w) (fieldN w))
  | 0xE => decodeFamilyE (fieldX w) (fieldKK w)
  | 0xF => decodeFamilyF (fieldX w) (fieldKK w)
  | _ => .errorFamily

/-- The word of two bytes in memory order: big-endian (20_memory.md R55). -/
def wordOfBytes (first second : Byte) : Word := first ++ second

/-- The two bytes of a word in memory order: big-endian (20_memory.md R55). -/
def bytesOfWord (w : Word) : List Byte := [w.extractLsb' 8 8, w.extractLsb' 0 8]

/-- Decoding a list of bytes: one word from its front, with the rest of the list (30_encoding.md R70). -/
def decodeBytes : List Byte → Except DecodeReject (Decoded × List Byte)
  | first :: second :: rest => .ok (decodeWord (wordOfBytes first second), rest)
  | [_] => .error .truncated
  | [] => .error .truncated

/-- The word of an instruction, from the encodings of 30_encoding.md R72 and R74, bit 15 on the left. -/
def encodeWord : Instr → Word
  | .clear => 0x00E0#16
  | .returnSub => 0x00EE#16
  | .jump nnn => 0x1#4 ++ nnn
  | .gotoSub nnn => 0x2#4 ++ nnn
  | .skipEqual x kk => 0x3#4 ++ x ++ kk
  | .skipNotEqual x kk => 0x4#4 ++ x ++ kk
  | .skipVXEqualVY x y i => 0x5#4 ++ x ++ y ++ i
  | .setVX x kk => 0x6#4 ++ x ++ kk
  | .addVX x kk => 0x7#4 ++ x ++ kk
  | .move x y => 0x8#4 ++ x ++ y ++ 0x0#4
  | .or x y => 0x8#4 ++ x ++ y ++ 0x1#4
  | .and x y => 0x8#4 ++ x ++ y ++ 0x2#4
  | .xor x y => 0x8#4 ++ x ++ y ++ 0x3#4
  | .addReg x y => 0x8#4 ++ x ++ y ++ 0x4#4
  | .subVYFromVX x y => 0x8#4 ++ x ++ y ++ 0x5#4
  | .shiftRight x y => 0x8#4 ++ x ++ y ++ 0x6#4
  | .subVXFromVY x y => 0x8#4 ++ x ++ y ++ 0x7#4
  | .shiftLeft x y => 0x8#4 ++ x ++ y ++ 0xE#4
  | .skipVXNotEqualVY x y i => 0x9#4 ++ x ++ y ++ i
  | .setI nnn => 0xA#4 ++ nnn
  | .jumpWithOffset nnn => 0xB#4 ++ nnn
  | .random x kk => 0xC#4 ++ x ++ kk
  | .draw x y n => 0xD#4 ++ x ++ y ++ n
  | .skipIfKey x => 0xE#4 ++ x ++ 0x9E#8
  | .skipIfNotKey x => 0xE#4 ++ x ++ 0xA1#8
  | .getDT x => 0xF#4 ++ x ++ 0x07#8
  | .getKey x => 0xF#4 ++ x ++ 0x0A#8
  | .setDT x => 0xF#4 ++ x ++ 0x15#8
  | .setST x => 0xF#4 ++ x ++ 0x18#8
  | .addI x => 0xF#4 ++ x ++ 0x1E#8
  | .fontChar x => 0xF#4 ++ x ++ 0x29#8
  | .bcdConvert x => 0xF#4 ++ x ++ 0x33#8
  | .storeRegs x => 0xF#4 ++ x ++ 0x55#8
  | .loadRegs x => 0xF#4 ++ x ++ 0x65#8

/-- The bytes of an instruction in memory order (20_memory.md R55). -/
def encode (i : Instr) : List Byte := bytesOfWord (encodeWord i)

/-- The row of the decode map (30_encoding.md R74) that an instruction stands on: its match and its mask. -/
def rowOf : Instr → Word × Word
  | .clear => (0x00E0, 0xFFFF)
  | .returnSub => (0x00EE, 0xFFFF)
  | .jump _ => (0x1000, 0xF000)
  | .gotoSub _ => (0x2000, 0xF000)
  | .skipEqual _ _ => (0x3000, 0xF000)
  | .skipNotEqual _ _ => (0x4000, 0xF000)
  | .skipVXEqualVY _ _ _ => (0x5000, 0xF000)
  | .setVX _ _ => (0x6000, 0xF000)
  | .addVX _ _ => (0x7000, 0xF000)
  | .move _ _ => (0x8000, 0xF00F)
  | .or _ _ => (0x8001, 0xF00F)
  | .and _ _ => (0x8002, 0xF00F)
  | .xor _ _ => (0x8003, 0xF00F)
  | .addReg _ _ => (0x8004, 0xF00F)
  | .subVYFromVX _ _ => (0x8005, 0xF00F)
  | .shiftRight _ _ => (0x8006, 0xF00F)
  | .subVXFromVY _ _ => (0x8007, 0xF00F)
  | .shiftLeft _ _ => (0x800E, 0xF00F)
  | .skipVXNotEqualVY _ _ _ => (0x9000, 0xF000)
  | .setI _ => (0xA000, 0xF000)
  | .jumpWithOffset _ => (0xB000, 0xF000)
  | .random _ _ => (0xC000, 0xF000)
  | .draw _ _ _ => (0xD000, 0xF000)
  | .skipIfKey _ => (0xE09E, 0xF0FF)
  | .skipIfNotKey _ => (0xE0A1, 0xF0FF)
  | .getDT _ => (0xF007, 0xF0FF)
  | .getKey _ => (0xF00A, 0xF0FF)
  | .setDT _ => (0xF015, 0xF0FF)
  | .setST _ => (0xF018, 0xF0FF)
  | .addI _ => (0xF01E, 0xF0FF)
  | .fontChar _ => (0xF029, 0xF0FF)
  | .bcdConvert _ => (0xF033, 0xF0FF)
  | .storeRegs _ => (0xF055, 0xF0FF)
  | .loadRegs _ => (0xF065, 0xF0FF)

/-- The decode map of 30_encoding.md R74 as a list of rows, in the order of the rule. -/
def opcodeRows : List OpcodeRow :=
  [ ⟨0x00E0, 0xFFFF, fun _ => .clear⟩,
    ⟨0x00EE, 0xFFFF, fun _ => .returnSub⟩,
    ⟨0x1000, 0xF000, fun w => .jump (fieldNNN w)⟩,
    ⟨0x2000, 0xF000, fun w => .gotoSub (fieldNNN w)⟩,
    ⟨0x3000, 0xF000, fun w => .skipEqual (fieldX w) (fieldKK w)⟩,
    ⟨0x4000, 0xF000, fun w => .skipNotEqual (fieldX w) (fieldKK w)⟩,
    ⟨0x5000, 0xF000, fun w => .skipVXEqualVY (fieldX w) (fieldY w) (fieldN w)⟩,
    ⟨0x6000, 0xF000, fun w => .setVX (fieldX w) (fieldKK w)⟩,
    ⟨0x7000, 0xF000, fun w => .addVX (fieldX w) (fieldKK w)⟩,
    ⟨0x8000, 0xF00F, fun w => .move (fieldX w) (fieldY w)⟩,
    ⟨0x8001, 0xF00F, fun w => .or (fieldX w) (fieldY w)⟩,
    ⟨0x8002, 0xF00F, fun w => .and (fieldX w) (fieldY w)⟩ ] ++
  [ ⟨0x8003, 0xF00F, fun w => .xor (fieldX w) (fieldY w)⟩,
    ⟨0x8004, 0xF00F, fun w => .addReg (fieldX w) (fieldY w)⟩,
    ⟨0x8005, 0xF00F, fun w => .subVYFromVX (fieldX w) (fieldY w)⟩,
    ⟨0x8006, 0xF00F, fun w => .shiftRight (fieldX w) (fieldY w)⟩,
    ⟨0x8007, 0xF00F, fun w => .subVXFromVY (fieldX w) (fieldY w)⟩,
    ⟨0x800E, 0xF00F, fun w => .shiftLeft (fieldX w) (fieldY w)⟩,
    ⟨0x9000, 0xF000, fun w => .skipVXNotEqualVY (fieldX w) (fieldY w) (fieldN w)⟩,
    ⟨0xA000, 0xF000, fun w => .setI (fieldNNN w)⟩,
    ⟨0xB000, 0xF000, fun w => .jumpWithOffset (fieldNNN w)⟩,
    ⟨0xC000, 0xF000, fun w => .random (fieldX w) (fieldKK w)⟩,
    ⟨0xD000, 0xF000, fun w => .draw (fieldX w) (fieldY w) (fieldN w)⟩ ] ++
  [ ⟨0xE09E, 0xF0FF, fun w => .skipIfKey (fieldX w)⟩,
    ⟨0xE0A1, 0xF0FF, fun w => .skipIfNotKey (fieldX w)⟩,
    ⟨0xF007, 0xF0FF, fun w => .getDT (fieldX w)⟩,
    ⟨0xF00A, 0xF0FF, fun w => .getKey (fieldX w)⟩,
    ⟨0xF015, 0xF0FF, fun w => .setDT (fieldX w)⟩,
    ⟨0xF018, 0xF0FF, fun w => .setST (fieldX w)⟩,
    ⟨0xF01E, 0xF0FF, fun w => .addI (fieldX w)⟩,
    ⟨0xF029, 0xF0FF, fun w => .fontChar (fieldX w)⟩,
    ⟨0xF033, 0xF0FF, fun w => .bcdConvert (fieldX w)⟩,
    ⟨0xF055, 0xF0FF, fun w => .storeRegs (fieldX w)⟩,
    ⟨0xF065, 0xF0FF, fun w => .loadRegs (fieldX w)⟩ ]

/-- The word whose low `nbits` bits are those of `w`, numbered as spec/opcode_table.json numbers them (an instruction
is one 16-bit word); every bit above is 0. -/
def tableWord (nbits w : Nat) : Word := BitVec.ofNat 16 (w % 2 ^ nbits)

/-- What the decoder reads from an instruction whose bits are `w`, laid out as memory holds it. -/
def decodeTableWord (nbits w : Nat) : Option Instr :=
  match decodeBytes (bytesOfWord (tableWord nbits w)) with
  | .ok (.variant i, _) => some i
  | .ok (.noneWord, _) => none
  | .ok (.errorFamily, _) => none
  | .error _ => none

end Sys2Proof
end

