-- ==== Sys2Proof/Config.lean ====
section
/-! DEFINITION. The parameters of 00_scope.md R9 and the three oracles of R10.
The widths of R9 (I_WIDTH, PC_WIDTH, TIMER_WIDTH, STACK_ENTRY_WIDTH, NUM_V) are the types of `Word.lean` and `State`.
FONT, the OPEN parameter, is an argument of the boot (`Machine/Font.lean`, `Machine/Boot.lean`). INSTR_RATE and TIMER_RATE are no part of the model (70_reset_and_hazards.md R295). -/

namespace Sys2Proof.Config

/-- MEM_SIZE (00_scope.md R9). -/
@[simp] abbrev memSize : Nat := 4096

/-- STACK_DEPTH (00_scope.md R9). -/
@[simp] abbrev stackDepth : Nat := 16

/-- DISPLAY_W (00_scope.md R9). -/
@[simp] abbrev displayW : Nat := 64

/-- DISPLAY_H (00_scope.md R9). -/
@[simp] abbrev displayH : Nat := 32

/-- PROGRAM_START (00_scope.md R9). -/
@[simp] abbrev programStart : Nat := 0x200

/-- ROM_MAX (00_scope.md R9). -/
@[simp] abbrev romMax : Nat := 3584

/-- FONT_BASE (00_scope.md R9). -/
@[simp] abbrev fontBase : Nat := 0x50

/-- FONT_GLYPH_BYTES (00_scope.md R9). -/
@[simp] abbrev fontGlyphBytes : Nat := 5

/-- FONT_SIZE (00_scope.md R9). -/
@[simp] abbrev fontSize : Nat := 80

/-- KEY, the oracle of 00_scope.md R10: the answer to the n-th key query of a run. A FREE VALUE (log entry 1):
it has no body, so a proof can use no answer in particular (60_exceptions.md R260, decision D16). -/
opaque key : Nat → Option Key

/-- RAND, the oracle of 00_scope.md R10: the n-th random byte of a run. A FREE VALUE (log entry 1)
(43_immediate_index.md R157, decision D17). -/
opaque rand : Nat → Byte

/-- TICK, the oracle of 00_scope.md R10: whether the timer driver fires at the n-th timer check of a run.
A FREE VALUE (log entry 1) (60_exceptions.md R255, decision D15). -/
opaque tick : Nat → Bool

end Sys2Proof.Config
end

