-- ==== Sys2Proof/Machine/Font.lean ====
section
/-! DEFINITION. FONT, the OPEN parameter of 00_scope.md R9 (decision D20): the type a boot takes it in, and its default.
PRESUMED (log entry 5): the default's bytes are the table of 10_state.md R41, which the spec itself marks as general
knowledge. -/

namespace Sys2Proof.Machine

/-- FONT: 80 bytes (00_scope.md R9, 10_state.md R41). -/
abbrev Font := Vector Byte Config.fontSize

/-- The 80 bytes of the default FONT: sixteen glyphs of five rows (10_state.md R41). -/
def fontTable : List Byte :=
  [ 0xF0, 0x90, 0x90, 0x90, 0xF0,
    0x20, 0x60, 0x20, 0x20, 0x70,
    0xF0, 0x10, 0xF0, 0x80, 0xF0,
    0xF0, 0x10, 0xF0, 0x10, 0xF0,
    0x90, 0x90, 0xF0, 0x10, 0x10,
    0xF0, 0x80, 0xF0, 0x10, 0xF0,
    0xF0, 0x80, 0xF0, 0x90, 0xF0,
    0xF0, 0x10, 0x20, 0x40, 0x40 ] ++
  [ 0xF0, 0x90, 0xF0, 0x90, 0xF0,
    0xF0, 0x90, 0xF0, 0x10, 0xF0,
    0xF0, 0x90, 0xF0, 0x90, 0x90,
    0xE0, 0x90, 0xE0, 0x90, 0xE0,
    0xF0, 0x80, 0x80, 0x80, 0xF0,
    0xE0, 0x90, 0x90, 0x90, 0xE0,
    0xF0, 0x80, 0xF0, 0x80, 0xF0,
    0xF0, 0x80, 0xF0, 0x80, 0x80 ]

/-- The default FONT. -/
def defaultFont : Font := ⟨fontTable.toArray, by decide⟩

end Sys2Proof.Machine
end

