-- ==== Sys2Proof/Machine/State.lean ====
section
/-! DEFINITION. The state of the core (10_state.md R20), plain data, and its value after reset (R40). -/

namespace Sys2Proof.Machine

/-- `mem` as the cells that differ from what an unlisted address reads as, addresses strictly rising
(`Memory.wf`, Ops.lean). The address space is 0x000 to 0xFFF (20_memory.md R50). -/
abbrev Memory := List Host.Cell

/-- `fb[0..31][0..63]`: 32 rows of 64 one-bit pixels (10_state.md R31). -/
abbrev Framebuffer := Vector (Vector Bool 64) 32

/-- The display signal of a completed cycle (60_exceptions.md R262). -/
inductive Signal where
  | noSignal
  | clearScreen
  | drawFrame (frame : Framebuffer)
  deriving DecidableEq, Repr

/-- The error kinds (60_exceptions.md R240), in the order of their codes 1 to 5. -/
inductive ErrorKind where
  | decodeError
  | stackOverflow
  | stackUnderflow
  | addressOutOfRange
  | romTooLarge
  deriving DecidableEq, Repr

/-- The error record of 60_exceptions.md R242: `word` is none for a failed fetch, `info` is the recorded info of R240
(none where the row of R240 records nothing). -/
structure ErrorRecord where
  kind : ErrorKind
  addr : Word
  word : Option Word
  info : Option Nat
  deriving DecidableEq, Repr

/-- `status` (10_state.md R35). -/
inductive Status where
  | running
  | halted (err : ErrorRecord)
  deriving DecidableEq, Repr

/-- Why a step stops. -/
inductive Fault where
  /-- Raised by `step`, and by nothing else, in a state whose status is Halted: "a halted core takes no further cycle"
  (60_exceptions.md R241). The error itself was a next state. Safe: nothing runs on from it (log entry 4). -/
  | halted (err : ErrorRecord)
  deriving DecidableEq, Repr

/-- Why the model gives an instruction no meaning. -/
inductive Refusal where
  /-- Raised by an arm of `exec` for an instruction that has no meaning yet. No arm raises it. Safe: nothing runs on. -/
  | notModelled (mnemonic : String)
  deriving DecidableEq, Repr

/-- The CPU State of 10_state.md R20, and four fields of the MODEL's own: `signal` (log entry 3) and the three counts
that say which answer of an oracle comes next (log entries 1 and 2). -/
structure State where
  /-- 4096 bytes (20_memory.md R50). -/
  mem : Memory
  /-- V0 to VF (10_state.md R21). -/
  v : Vector Byte 16
  /-- The index register `I` (10_state.md R27). -/
  regI : Word
  /-- The program counter (10_state.md R25). -/
  pc : Word
  /-- The call stack's slots (10_state.md R28). -/
  stack : Vector Word 16
  /-- The depth counter, 0 to 16 (10_state.md R28). -/
  sp : Fin 17
  /-- The delay timer `DT` (10_state.md R29). -/
  dt : Byte
  /-- The sound timer `ST` (10_state.md R30). -/
  st : Byte
  /-- The framebuffer (10_state.md R31). -/
  fb : Framebuffer
  /-- Running or Halted (10_state.md R35). -/
  status : Status
  /-- The MODEL's own: the display signal the last completed cycle returned; none before the first (log entry 3). -/
  signal : Option Signal
  /-- The MODEL's own: KEY answers taken so far (log entry 2). -/
  keyQueries : Nat
  /-- The MODEL's own: RAND bytes taken so far (log entry 2). -/
  randDraws : Nat
  /-- The MODEL's own: TICK answers taken so far (log entry 2). -/
  tickChecks : Nat
  deriving DecidableEq, Repr

/-- What a cycle answers. -/
abbrev Result := Host.Outcome State Fault Refusal

/-- The machine right after reset with no ROM bytes loaded (10_state.md R40; log entries 2, 3, 5, 6 and 7).
No cell is listed: an unlisted address reads as the reset contents with the default FONT. The state after reset with
any FONT is `State.resetWith` (Boot.lean); this one is that of the default. -/
def State.reset : State where
  mem := []
  v := Vector.replicate 16 0
  regI := 0
  pc := BitVec.ofNat 16 Config.programStart
  stack := Vector.replicate 16 0
  sp := 0
  dt := 0
  st := 0
  fb := Vector.replicate 32 (Vector.replicate 64 false)
  status := .running
  signal := none
  keyQueries := 0
  randDraws := 0
  tickChecks := 0

end Sys2Proof.Machine
end

