-- ==== Sys2Proof/Machine/Ops.lean ====
section
/-! DEFINITION. The named operations over memory, the registers, the stack and the framebuffer, and the one operation
that ends a cycle in an error. -/

namespace Sys2Proof.Machine

/-! ## Memory (20_memory.md) -/

/-- What an address that no cell lists reads as: the reset contents with the default FONT: that FONT at 0x050 to
0x09F and zero elsewhere (10_state.md R40, 70_reset_and_hazards.md R280, R281). A boot with another FONT lists the bytes
that differ (`State.resetWith`). -/
def initialByte (a : Nat) : Byte :=
  if Config.fontBase ≤ a ∧ a < Config.fontBase + Config.fontSize then fontTable.getD (a - Config.fontBase) 0 else 0

/-- The canonical form: addresses strictly rising, each inside the address space ("memory addresses outside
0x000–0xFFF never hold a value", 10_state.md R36), no cell equal to what its address reads as unlisted. -/
abbrev Memory.wf (m : Memory) : Prop :=
  m.Pairwise (fun c d => c.1 < d.1) ∧ ∀ c ∈ m, c.1 < Config.memSize ∧ c.2 ≠ initialByte c.1

/-- The byte at an address (20_memory.md R57: reading has no side effect). -/
def memReadByte : Memory → Nat → Byte
  | [], a => initialByte a
  | (b, w) :: m, a => if a = b then w else memReadByte m a

/-- Lists the cell `(a, v)`, replacing any cell at `a`. -/
def memInsert : Memory → Nat → Byte → Memory
  | [], a, v => [(a, v)]
  | (b, w) :: m, a, v =>
    if a < b then (a, v) :: (b, w) :: m
    else if a = b then (a, v) :: m
    else (b, w) :: memInsert m a v

/-- Removes any cell at `a`. -/
def memErase : Memory → Nat → Memory
  | [], _ => []
  | (b, w) :: m, a => if a = b then m else (b, w) :: memErase m a

/-- Stores one byte, keeping the canonical form. Every instruction checks its addresses first (20_memory.md R52), so the
arm that discards a byte outside the address space is reached by no instruction (log entry 9). -/
def memWriteByte (m : Memory) (a : Nat) (v : Byte) : Memory :=
  if a < Config.memSize then
    if v = initialByte a then memErase m a else memInsert m a v
  else m

/-- `MemRead(addr, n)` of 00_scope.md R12: n bytes in increasing address order. -/
def memRead (m : Memory) (a n : Nat) : List Byte := (List.range n).map fun k => memReadByte m (a + k)

/-- `MemWrite(addr, n, v)` of 00_scope.md R12: the bytes of the list at addr, addr + 1, and so on. -/
def memWrite : Memory → Nat → List Byte → Memory
  | m, _, [] => m
  | m, a, b :: bs => memWrite (memWriteByte m a b) (a + 1) bs

/-- The word at an address: big-endian (20_memory.md R55). -/
def memReadWord (m : Memory) (a : Nat) : Word := wordOfBytes (memReadByte m a) (memReadByte m (a + 1))

/-! ## Registers (10_state.md R21 to R30) -/

/-- The index of VF, the flag register (10_state.md R22). -/
def vf : RegIdx := 0xF

/-- Reads `V[x]` (10_state.md R21: no register is hardwired, aliased or banked). -/
def State.reg (s : State) (x : RegIdx) : Byte := s.v[x.toNat]'x.isLt

/-- `V[x] <- b`. -/
def State.setReg (s : State) (x : RegIdx) (b : Byte) : State := { s with v := s.v.set x.toNat b x.isLt }

/-- `I <- w`. -/
def State.setI (s : State) (w : Word) : State := { s with regI := w }

/-- `pc <- w`. -/
def State.setPc (s : State) (w : Word) : State := { s with pc := w }

/-- `DT <- b`. -/
def State.setDelay (s : State) (b : Byte) : State := { s with dt := b }

/-- `ST <- b`. -/
def State.setSound (s : State) (b : Byte) : State := { s with st := b }

/-- Replaces memory. -/
def State.setMem (s : State) (m : Memory) : State := { s with mem := m }

/-- Replaces the framebuffer. -/
def State.setFb (s : State) (f : Framebuffer) : State := { s with fb := f }

/-! ## The call stack (10_state.md R28) -/

/-- Push "writes-then-increments"; `sp` is below 16, which the caller has checked. -/
def State.push (s : State) (w : Word) (h : s.sp.val < 16) : State :=
  { s with stack := s.stack.set s.sp.val w h, sp := ⟨s.sp.val + 1, by omega⟩ }

/-- The slot a pop reads, `stack[sp − 1]`; `sp` is above 0, which the caller has checked. -/
def State.top (s : State) (h : 0 < s.sp.val) : Word := s.stack[s.sp.val - 1]'(by omega)

/-- Pop "decrements-then-reads"; the slot keeps its value (41_control.md R122). -/
def State.pop (s : State) : State := { s with sp := ⟨s.sp.val - 1, by omega⟩ }

/-! ## The framebuffer (10_state.md R31) -/

/-- The framebuffer with every pixel 0. -/
def blankFb : Framebuffer := Vector.replicate 32 (Vector.replicate 64 false)

/-- `fb[r][c]`; false outside the grid, where there is no pixel. -/
def pixel (f : Framebuffer) (r c : Nat) : Bool := if h : r < 32 ∧ c < 64 then (f[r]'h.1)[c]'h.2 else false

/-- `fb[r][c] <- b`; nothing outside the grid, where there is no pixel. -/
def setPixel (f : Framebuffer) (r c : Nat) (b : Bool) : Framebuffer :=
  if h : r < 32 ∧ c < 64 then f.set r ((f[r]'h.1).set c b h.2) h.1 else f

/-! ## The oracles (00_scope.md R10) -/

/-- The state after one KEY answer is taken. -/
def State.tookKey (s : State) : State := { s with keyQueries := s.keyQueries + 1 }

/-- The state after one RAND byte is taken. -/
def State.tookRand (s : State) : State := { s with randDraws := s.randDraws + 1 }

/-- The state after one TICK answer is taken. -/
def State.tookTick (s : State) : State := { s with tickChecks := s.tickChecks + 1 }

/-! ## How an instruction ends (40_cycle.md R103, R105) -/

/-- The state after the signal of a completed cycle is returned (40_cycle.md R106). -/
def State.emit (s : State) (sig : Signal) : State := { s with signal := some sig }

/-- The instruction completes and returns its signal (40_cycle.md R106). -/
def complete (sig : Signal) (s : State) : Result := .next (s.emit sig)

/-- The state an error leaves: Halted with the record, `pc` at the record's address, nothing else changed
(60_exceptions.md R241 to R243). -/
def State.haltAt (s : State) (err : ErrorRecord) : State := { s with pc := err.addr, status := .halted err }

/-- ENTERING AN ERROR, the one operation: `status` becomes Halted with the record, `pc` is the address `addr` of the
failing instruction or fetch, nothing else changes (60_exceptions.md R241 to R243). There is no vector, no saved state
and no return from an error (R246). -/
def halt (kind : ErrorKind) (addr : Word) (word : Option Word) (info : Option Nat) (s : State) : Result :=
  .next (s.haltAt ⟨kind, addr, word, info⟩)

/-- `raise E(info)` by the instruction whose word is `word`: its address is `a = pc − 2`, because `pc` advanced at fetch
(40_cycle.md R100). Every check comes before any write, so restoring `pc` restores the state (R103). -/
def raise (kind : ErrorKind) (info : Option Nat) (word : Word) (s : State) : Result :=
  halt kind (s.pc - 2) (some word) info s

/-- The numeric code of an error kind (60_exceptions.md R240, decision D12). -/
def errorCode : ErrorKind → Nat
  | .decodeError => 1
  | .stackOverflow => 2
  | .stackUnderflow => 3
  | .addressOutOfRange => 4
  | .romTooLarge => 5

end Sys2Proof.Machine
end

