-- ==== Sys2Proof/Machine/Operands.lean ====
section
/-! DEFINITION. The operand forms (30_encoding.md R84): immediates and addresses widened to 16 bits, the key comparison,
the skip, and the checked block of memory that `I` addresses. -/

namespace Sys2Proof.Machine

/-- `zext_16(nnn)` (30_encoding.md R84). -/
def zextAddr (nnn : Addr) : Word := nnn.setWidth 16

/-- A byte widened to 16 bits (00_scope.md R12: no instruction sign-extends). -/
def zextByte (b : Byte) : Word := b.setWidth 16

/-- A key code as an 8-bit value (42_keys.md R142, R143). -/
def keyByte (c : Key) : Byte := c.setWidth 8

/-- "The pressed logical key equals Vx" (42_keys.md R142). -/
def keyEquals (answer : Option Key) (vx : Byte) : Bool :=
  match answer with
  | some c => keyByte c == vx
  | none => false

/-- The skip of 41_control.md R127: one more advance of 2 when the condition holds. -/
def skipWhen (cond : Bool) (s : State) : State := s.setPc (if cond then s.pc + 2 else s.pc)

/-- The address check of 20_memory.md R52 for the `n` bytes from `base`: the lowest address above 0xFFF, if there is
one. Nothing is checked when `n` is 0. -/
def badAddress (base : Word) (n : Nat) : Option Nat :=
  if 0 < n ∧ base.toNat + n - 1 > 0xFFF then some (max base.toNat 0x1000) else none

end Sys2Proof.Machine
end

