-- ==== Sys2Proof/Machine/Flags.lean ====
section
/-! DEFINITION. Every flag computation: VF is the only flag (10_state.md R22, R34). -/

namespace Sys2Proof.Machine

/-- A flag as VF holds it: 1 or 0. -/
def flagByte (f : Bool) : Byte := if f then 1 else 0

/-- The carry of AddReg: `Vx + Vy > 255` (45_alu.md R189, R194). -/
def carry (a b : Byte) : Bool := decide (a.toNat + b.toNat > 255)

/-- "No borrow": the minuend is greater than or equal to the subtrahend (45_alu.md R189, R195, R197). -/
def noBorrow (minuend subtrahend : Byte) : Bool := decide (minuend.toNat ≥ subtrahend.toNat)

/-- The bit ShiftRight shifts out: bit 0 (45_alu.md R196). -/
def bitOutRight (a : Byte) : Bool := a.getLsbD 0

/-- The bit ShiftLeft shifts out: bit 7 (45_alu.md R199). -/
def bitOutLeft (a : Byte) : Bool := a.getLsbD 7

/-- AddI's condition: the new `I` is 0x1000 or more (43_immediate_index.md R153). -/
def indexOverflow (t : Word) : Bool := decide (t.toNat ≥ 0x1000)

/-- Writes a result to Vx and then the flag to VF, so that VF holds the flag when x = F (40_cycle.md R101). -/
def State.setResultAndFlag (s : State) (x : RegIdx) (result : Byte) (f : Bool) : State :=
  (s.setReg x result).setReg vf (flagByte f)

end Sys2Proof.Machine
end

