-- ==== Sys2Proof/Machine/Alu.lean ====
section
/-! DEFINITION. Family 8: register arithmetic and logic (45_alu.md). -/

namespace Sys2Proof.Machine

/-- 45_alu.md R190. -/
def execMove (x y : RegIdx) (s : State) : Result := complete .noSignal (s.setReg x (s.reg y))

/-- 45_alu.md R191; VF is not reset. -/
def execOr (x y : RegIdx) (s : State) : Result := complete .noSignal (s.setReg x (s.reg x ||| s.reg y))

/-- 45_alu.md R192. -/
def execAnd (x y : RegIdx) (s : State) : Result := complete .noSignal (s.setReg x (s.reg x &&& s.reg y))

/-- 45_alu.md R193. -/
def execXor (x y : RegIdx) (s : State) : Result := complete .noSignal (s.setReg x (s.reg x ^^^ s.reg y))

/-- 45_alu.md R194. -/
def execAddReg (x y : RegIdx) (s : State) : Result :=
  complete .noSignal (s.setResultAndFlag x (s.reg x + s.reg y) (carry (s.reg x) (s.reg y)))

/-- 45_alu.md R195. -/
def execSubVYFromVX (x y : RegIdx) (s : State) : Result :=
  complete .noSignal (s.setResultAndFlag x (s.reg x - s.reg y) (noBorrow (s.reg x) (s.reg y)))

/-- 45_alu.md R196: `y` is encoded and unused. -/
def execShiftRight (x _y : RegIdx) (s : State) : Result :=
  complete .noSignal (s.setResultAndFlag x (s.reg x >>> 1) (bitOutRight (s.reg x)))

/-- 45_alu.md R197: the result goes to Vx. -/
def execSubVXFromVY (x y : RegIdx) (s : State) : Result :=
  complete .noSignal (s.setResultAndFlag x (s.reg y - s.reg x) (noBorrow (s.reg y) (s.reg x)))

/-- 45_alu.md R199: `y` is encoded and unused. -/
def execShiftLeft (x _y : RegIdx) (s : State) : Result :=
  complete .noSignal (s.setResultAndFlag x (s.reg x <<< 1) (bitOutLeft (s.reg x)))

end Sys2Proof.Machine
end

