-- ==== Sys2Proof/Machine/Block.lean ====
section
/-! DEFINITION. The memory-block transfers (46_memory_timers.md): all addresses are checked first, `I` is unchanged. -/

namespace Sys2Proof.Machine

/-- The hundreds, tens and ones digits of a byte (46_memory_timers.md R210). -/
def bcdDigits (b : Byte) : List Byte :=
  [BitVec.ofNat 8 (b.toNat / 100), BitVec.ofNat 8 (b.toNat / 10 % 10), BitVec.ofNat 8 (b.toNat % 10)]

/-- 46_memory_timers.md R210. -/
def execBcdConvert (x : RegIdx) (s : State) : Result :=
  match badAddress s.regI 3 with
  | some bad => raise .addressOutOfRange (some bad) (encodeWord (.bcdConvert x)) s
  | none => complete .noSignal (s.setMem (memWrite s.mem s.regI.toNat (bcdDigits (s.reg x))))

/-- `V[0]` to `V[x]` in order (46_memory_timers.md R211). -/
def State.regsUpTo (s : State) (x : RegIdx) : List Byte :=
  (List.range (x.toNat + 1)).map fun i => s.reg (BitVec.ofNat 4 i)

/-- 46_memory_timers.md R211. -/
def execStoreRegs (x : RegIdx) (s : State) : Result :=
  match badAddress s.regI (x.toNat + 1) with
  | some bad => raise .addressOutOfRange (some bad) (encodeWord (.storeRegs x)) s
  | none => complete .noSignal (s.setMem (memWrite s.mem s.regI.toNat (s.regsUpTo x)))

/-- `V[i]` takes the i-th byte of the list, a register beyond the list keeps its value (46_memory_timers.md R212). -/
def State.setRegsFrom (s : State) (bs : List Byte) : State :=
  { s with v := Vector.ofFn fun i : Fin 16 => bs.getD i.val (s.v[i.val]'i.isLt) }

/-- 46_memory_timers.md R212. -/
def execLoadRegs (x : RegIdx) (s : State) : Result :=
  match badAddress s.regI (x.toNat + 1) with
  | some bad => raise .addressOutOfRange (some bad) (encodeWord (.loadRegs x)) s
  | none => complete .noSignal (s.setRegsFrom (memRead s.mem s.regI.toNat (x.toNat + 1)))

end Sys2Proof.Machine
end

