-- ==== Sys2Proof/Machine/Control.lean ====
section
/-! DEFINITION. Control transfer and skips (41_control.md). `pc` is the address of the following word on entry
(40_cycle.md R100). -/

namespace Sys2Proof.Machine

/-- 41_control.md R120. -/
def execJump (nnn : Addr) (s : State) : Result := complete .noSignal (s.setPc (zextAddr nnn))

/-- 41_control.md R121. -/
def execGotoSub (nnn : Addr) (s : State) : Result :=
  if h : s.sp.val < 16 then complete .noSignal ((s.push s.pc h).setPc (zextAddr nnn))
  else raise .stackOverflow none (encodeWord (.gotoSub nnn)) s

/-- 41_control.md R122. -/
def execReturnSub (s : State) : Result :=
  if h : 0 < s.sp.val then complete .noSignal (s.pop.setPc (s.top h))
  else raise .stackUnderflow none (encodeWord .returnSub) s

/-- 41_control.md R128: the register is always V0. -/
def execJumpWithOffset (nnn : Addr) (s : State) : Result :=
  complete .noSignal (s.setPc (zextAddr nnn + zextByte (s.reg 0)))

/-- 41_control.md R123. -/
def execSkipEqual (x : RegIdx) (kk : Byte) (s : State) : Result := complete .noSignal (skipWhen (s.reg x == kk) s)

/-- 41_control.md R124. -/
def execSkipNotEqual (x : RegIdx) (kk : Byte) (s : State) : Result := complete .noSignal (skipWhen (s.reg x != kk) s)

/-- 41_control.md R125: bits 3:0 are ignored. -/
def execSkipVXEqualVY (x y : RegIdx) (_i : Nibble) (s : State) : Result :=
  complete .noSignal (skipWhen (s.reg x == s.reg y) s)

/-- 41_control.md R126: bits 3:0 are ignored. -/
def execSkipVXNotEqualVY (x y : RegIdx) (_i : Nibble) (s : State) : Result :=
  complete .noSignal (skipWhen (s.reg x != s.reg y) s)

end Sys2Proof.Machine
end

