-- ==== Sys2Proof/Machine/Display.lean ====
section
/-! DEFINITION. The display instructions (44_display.md). -/

namespace Sys2Proof.Machine

/-- 44_display.md R170. -/
def execClear (s : State) : Result := complete .clearScreen (s.setFb blankFb)

/-- One sprite bit at row `r` and column `c`, with the collision flag so far: a bit that is 0 or off the screen does
nothing, a bit that is 1 toggles its pixel and sets the flag when the pixel was 1 (44_display.md R171, R173, R174). -/
def blitBit (bit : Bool) (r c : Nat) (acc : Framebuffer × Bool) : Framebuffer × Bool :=
  if r ≤ 31 ∧ c ≤ 63 ∧ bit = true then
    if pixel acc.1 r c then (setPixel acc.1 r c false, true) else (setPixel acc.1 r c true, acc.2)
  else acc

/-- One sprite byte in row `r` from column `cx`: bit 7 − b at column cx + b (44_display.md R173). -/
def blitByte (cx r : Nat) (byte : Byte) (acc : Framebuffer × Bool) : Framebuffer × Bool :=
  (List.range 8).foldl (fun acc b => blitBit (byte.getLsbD (7 - b)) r (cx + b) acc) acc

/-- The sprite's bytes in the rows from `r` on (44_display.md R171). -/
def blitRows (cx : Nat) : Nat → List Byte → Framebuffer × Bool → Framebuffer × Bool
  | _, [], acc => acc
  | r, byte :: rest, acc => blitRows cx (r + 1) rest (blitByte cx r byte acc)

/-- The blit of 44_display.md R171 from a cleared collision flag. -/
def blit (cx cy : Nat) (sprite : List Byte) (f : Framebuffer) : Framebuffer × Bool :=
  blitRows cx cy sprite (f, false)

/-- 44_display.md R171: the start position wraps, both coordinates are read before VF is written, every sprite byte is
checked first. -/
def execDraw (x y : RegIdx) (n : Nibble) (s : State) : Result :=
  match badAddress s.regI n.toNat with
  | some bad => raise .addressOutOfRange (some bad) (encodeWord (.draw x y n)) s
  | none =>
    let drawn := blit ((s.reg x).toNat % Config.displayW) ((s.reg y).toNat % Config.displayH)
      (memRead s.mem s.regI.toNat n.toNat) s.fb
    complete (.drawFrame drawn.1) ((s.setFb drawn.1).setReg vf (flagByte drawn.2))

end Sys2Proof.Machine
end

