-- ==== Sys2Proof/Machine/Immediate.lean ====
section
/-! DEFINITION. Immediate and index-register instructions (43_immediate_index.md). -/

namespace Sys2Proof.Machine

/-- 43_immediate_index.md R150. -/
def execSetVX (x : RegIdx) (kk : Byte) (s : State) : Result := complete .noSignal (s.setReg x kk)

/-- 43_immediate_index.md R151: VF is not touched as a flag. -/
def execAddVX (x : RegIdx) (kk : Byte) (s : State) : Result := complete .noSignal (s.setReg x (s.reg x + kk))

/-- 43_immediate_index.md R152. -/
def execSetI (nnn : Addr) (s : State) : Result := complete .noSignal (s.setI (zextAddr nnn))

/-- 43_immediate_index.md R153: VF is set to 1 when the new `I` is 0x1000 or more and is otherwise left alone. -/
def execAddI (x : RegIdx) (s : State) : Result :=
  let t := s.regI + zextByte (s.reg x)
  complete .noSignal (if indexOverflow t then (s.setI t).setReg vf 1 else s.setI t)

/-- 43_immediate_index.md R155: Vx is not masked. -/
def execFontChar (x : RegIdx) (s : State) : Result :=
  complete .noSignal
    (s.setI (BitVec.ofNat 16 ((s.reg x).toNat * Config.fontGlyphBytes + Config.fontBase)))

/-- 43_immediate_index.md R157 for the random byte `r`. -/
def randomOn (r : Byte) (x : RegIdx) (kk : Byte) (s : State) : Result := complete .noSignal (s.setReg x (r &&& kk))

/-- 43_immediate_index.md R157: one byte of the RAND oracle. -/
def execRandom (x : RegIdx) (kk : Byte) (s : State) : Result :=
  randomOn (Config.rand s.randDraws) x kk s.tookRand

end Sys2Proof.Machine
end

