-- ==== Sys2Proof/Machine/Keys.lean ====
section
/-! DEFINITION. The key instructions (42_keys.md): each takes exactly one answer of the KEY oracle
(60_exceptions.md R261). -/

namespace Sys2Proof.Machine

/-- 42_keys.md R140 for the answer `k`. -/
def skipIfKeyOn (k : Option Key) (x : RegIdx) (s : State) : Result :=
  complete .noSignal (skipWhen (keyEquals k (s.reg x)) s)

/-- 42_keys.md R140. -/
def execSkipIfKey (x : RegIdx) (s : State) : Result := skipIfKeyOn (Config.key s.keyQueries) x s.tookKey

/-- 42_keys.md R141 for the answer `k`. -/
def skipIfNotKeyOn (k : Option Key) (x : RegIdx) (s : State) : Result :=
  complete .noSignal (skipWhen (!keyEquals k (s.reg x)) s)

/-- 42_keys.md R141. -/
def execSkipIfNotKey (x : RegIdx) (s : State) : Result := skipIfNotKeyOn (Config.key s.keyQueries) x s.tookKey

/-- What GetKey leaves in Vx: the code of the pressed key, or the old value while it waits (42_keys.md R143). -/
def keyOr (k : Option Key) (old : Byte) : Byte :=
  match k with
  | some c => keyByte c
  | none => old

/-- Where GetKey leaves `pc`: at the following word when a key is pressed, else back at itself (42_keys.md R143). -/
def keyPc (k : Option Key) (pc : Word) : Word :=
  match k with
  | some _ => pc
  | none => pc - 2

/-- 42_keys.md R143 for the answer `k`. Writing the old value of Vx back is no write. -/
def getKeyOn (k : Option Key) (x : RegIdx) (s : State) : Result :=
  complete .noSignal ((s.setReg x (keyOr k (s.reg x))).setPc (keyPc k s.pc))

/-- 42_keys.md R143. -/
def execGetKey (x : RegIdx) (s : State) : Result := getKeyOn (Config.key s.keyQueries) x s.tookKey

end Sys2Proof.Machine
end

