-- ==== Sys2Proof/Machine/Timers.lean ====
section
/-! DEFINITION. The timer transfers (46_memory_timers.md) and the Timer Driver (60_exceptions.md R255). -/

namespace Sys2Proof.Machine

/-- 46_memory_timers.md R213: the value before this cycle's timer check. -/
def execGetDT (x : RegIdx) (s : State) : Result := complete .noSignal (s.setReg x s.dt)

/-- 46_memory_timers.md R214. -/
def execSetDT (x : RegIdx) (s : State) : Result := complete .noSignal (s.setDelay (s.reg x))

/-- 46_memory_timers.md R215. -/
def execSetST (x : RegIdx) (s : State) : Result := complete .noSignal (s.setSound (s.reg x))

/-- One countdown step with its floor at zero (60_exceptions.md R255). -/
def countdown (t : Byte) : Byte := if t.toNat > 0 then t - 1 else t

/-- The Timer Driver for one TICK answer: when it is true, both timers count down in the same tick
(60_exceptions.md R255). -/
def timerTick (fires : Bool) (s : State) : State :=
  { s with dt := if fires then countdown s.dt else s.dt, st := if fires then countdown s.st else s.st }

/-- The timer check of 40_cycle.md R107: one answer of the TICK oracle. -/
def timerCheck (s : State) : State := timerTick (Config.tick s.tickChecks) s.tookTick

end Sys2Proof.Machine
end

