-- ==== Sys2Proof/Machine/Dispatch.lean ====
section
/-! DEFINITION. Execute (40_cycle.md R105): one arm per variant, in the order of spec/opcode_table.json. -/

namespace Sys2Proof.Machine

/-- The meaning of one instruction in a state whose `pc` has already advanced past its word (40_cycle.md R100). -/
def exec (i : Instr) (s : State) : Host.Outcome State Fault Refusal :=
  match i with
  | .clear => Sys2Proof.Machine.execClear s
  | .returnSub => Sys2Proof.Machine.execReturnSub s
  | .jump nnn => Sys2Proof.Machine.execJump nnn s
  | .gotoSub nnn => Sys2Proof.Machine.execGotoSub nnn s
  | .skipEqual x kk => Sys2Proof.Machine.execSkipEqual x kk s
  | .skipNotEqual x kk => Sys2Proof.Machine.execSkipNotEqual x kk s
  | .skipVXEqualVY x y low => Sys2Proof.Machine.execSkipVXEqualVY x y low s
  | .setVX x kk => Sys2Proof.Machine.execSetVX x kk s
  | .addVX x kk => Sys2Proof.Machine.execAddVX x kk s
  | .move x y => Sys2Proof.Machine.execMove x y s
  | .or x y => Sys2Proof.Machine.execOr x y s
  | .and x y => Sys2Proof.Machine.execAnd x y s
  | .xor x y => Sys2Proof.Machine.execXor x y s
  | .addReg x y => Sys2Proof.Machine.execAddReg x y s
  | .subVYFromVX x y => Sys2Proof.Machine.execSubVYFromVX x y s
  | .shiftRight x y => Sys2Proof.Machine.execShiftRight x y s
  | .subVXFromVY x y => Sys2Proof.Machine.execSubVXFromVY x y s
  | .shiftLeft x y => Sys2Proof.Machine.execShiftLeft x y s
  | .skipVXNotEqualVY x y low => Sys2Proof.Machine.execSkipVXNotEqualVY x y low s
  | .setI nnn => Sys2Proof.Machine.execSetI nnn s
  | .jumpWithOffset nnn => Sys2Proof.Machine.execJumpWithOffset nnn s
  | .random x kk => Sys2Proof.Machine.execRandom x kk s
  | .draw x y n => Sys2Proof.Machine.execDraw x y n s
  | .skipIfKey x => Sys2Proof.Machine.execSkipIfKey x s
  | .skipIfNotKey x => Sys2Proof.Machine.execSkipIfNotKey x s
  | .getDT x => Sys2Proof.Machine.execGetDT x s
  | .getKey x => Sys2Proof.Machine.execGetKey x s
  | .setDT x => Sys2Proof.Machine.execSetDT x s
  | .setST x => Sys2Proof.Machine.execSetST x s
  | .addI x => Sys2Proof.Machine.execAddI x s
  | .fontChar x => Sys2Proof.Machine.execFontChar x s
  | .bcdConvert x => Sys2Proof.Machine.execBcdConvert x s
  | .storeRegs x => Sys2Proof.Machine.execStoreRegs x s
  | .loadRegs x => Sys2Proof.Machine.execLoadRegs x s

end Sys2Proof.Machine
end

