-- ==== Sys2Proof/Machine/Noop.lean ====
section
/-! DEFINITION. The two decoder results that are no instructions (47_noop.md). -/

namespace Sys2Proof.Machine

/-- 47_noop.md R230: only the advance of `pc` at fetch takes effect. -/
def execNoneWord (s : State) : Result := complete .noSignal s

/-- 47_noop.md R231: reached by no word (30_encoding.md R81). -/
def execErrorFamily (word : Word) (s : State) : Result := raise .decodeError (some word.toNat) word s

end Sys2Proof.Machine
end

