-- ==== Sys2Proof/Machine/Cycle.lean ====
section
/-! DEFINITION. One cycle of the core (40_cycle.md R109): fetch, decode, execute, timer check. -/

namespace Sys2Proof.Machine

/-- The fetch check of 20_memory.md R53: a fetch needs `pc` at most 0xFFE; the bad address is 0x1000 when `pc` is 0xFFF
and `pc` itself above. -/
def fetchBad (pc : Word) : Option Nat := if pc.toNat > 0xFFE then some (max pc.toNat 0x1000) else none

/-- The word a fetch reads (40_cycle.md R100). -/
def fetchWord (s : State) : Word := memReadWord s.mem s.pc.toNat

/-- The advance at fetch: `pc <- (a + 2) mod 2^16` (40_cycle.md R100). -/
def advance (s : State) : State := s.setPc (s.pc + 2)

/-- Execute what the decoder answered, in the advanced state (40_cycle.md R104, R105). -/
def execDecoded (word : Word) (d : Decoded) (s : State) : Result :=
  match d with
  | .variant i => exec i s
  | .noneWord => execNoneWord s
  | .errorFamily => execErrorFamily word s

/-- The end of a cycle: the timer check follows a completed instruction only (40_cycle.md R107). -/
def finishCycle : Result → Result
  | .next t =>
    match t.status with
    | .running => .next (timerCheck t)
    | .halted _ => .next t
  | .fault f => .fault f
  | .refused q => .refused q

/-- One cycle of a running core (40_cycle.md R109). -/
def runCycle (s : State) : Result :=
  match fetchBad s.pc with
  | some bad => halt .addressOutOfRange s.pc none (some bad) s
  | none => finishCycle (execDecoded (fetchWord s) (decodeWord (fetchWord s)) (advance s))

/-- One cycle: "if status ≠ Running then no step" (40_cycle.md R109, 60_exceptions.md R241). -/
def cycle (s : State) : Result :=
  match s.status with
  | .running => runCycle s
  | .halted err => .fault (.halted err)

end Sys2Proof.Machine
end

