-- ==== Sys2Proof/Machine/Step.lean ====
section
/-! DEFINITION. The step function: one cycle (40_cycle.md R109). -/

namespace Sys2Proof.Machine

/-- One step of the core. -/
def step (s : State) : Host.Outcome State Fault Refusal := cycle s

/-- `s` with one instruction stored where `step` fetches its next one: the two bytes at `pc`, big-endian
(20_memory.md R55). It stands for the ROM load that puts a program into memory (log entry 7). -/
def State.withFetchWord (s : State) (nbits w : Nat) : State :=
  s.setMem (memWrite s.mem s.pc.toNat (bytesOfWord (tableWord nbits w)))

end Sys2Proof.Machine
end

