-- ==== Sys2Proof/WellFormed.lean ====
section
/-! DEFINITION. Which terms from outside the core are well formed.
An operand's type has exactly the width of its field (30_encoding.md R71), so EVERY term of `Instr` is an instruction
of this hardware and the decoder needs no check on what it answers. Two checks remain, on what is handed in:
the form the assembler syntax can write (R85), and the length of a ROM (70_reset_and_hazards.md R283). -/

namespace Sys2Proof

/-- The instruction is one that the assembler syntax of 30_encoding.md R85 writes: "an ignored field (bits 3:0 of
`5xy?` and `9xy?`) assembles as 0". The hardware runs the other forms alike (R79): this is no condition on running. -/
def Instr.isAssembled : Instr → Bool
  | .skipVXEqualVY _ _ i => i == 0
  | .skipVXNotEqualVY _ _ i => i == 0
  | .clear | .returnSub | .jump _ | .gotoSub _ | .skipEqual _ _ | .skipNotEqual _ _ | .setVX _ _ | .addVX _ _ => true
  | .move _ _ | .or _ _ | .and _ _ | .xor _ _ | .addReg _ _ | .subVYFromVX _ _ | .shiftRight _ _ => true
  | .subVXFromVY _ _ | .shiftLeft _ _ | .setI _ | .jumpWithOffset _ | .random _ _ | .draw _ _ _ => true
  | .skipIfKey _ | .skipIfNotKey _ | .getDT _ | .getKey _ | .setDT _ | .setST _ | .addI _ | .fontChar _ => true
  | .bcdConvert _ | .storeRegs _ | .loadRegs _ => true

/-- A ROM of this many bytes is accepted (70_reset_and_hazards.md R283: 0 to 3584 bytes, of any parity). -/
def romFits (len : Nat) : Bool := decide (len ≤ Config.romMax)

end Sys2Proof
end

