-- ==== Sys2Proof/Machine/Boot.lean ====
section
/-! DEFINITION. The boot sequence (70_reset_and_hazards.md R282): create, font, ROM. FONT and the ROM are its arguments. -/

namespace Sys2Proof.Machine

/-- The created state with FONT copied to 0x050 and up (70_reset_and_hazards.md R280, R281; 10_state.md R40). Over the
reset contents with the default FONT a copy of any FONT leaves exactly that FONT. -/
def State.resetWith (font : Font) : State := State.reset.setMem (memWrite State.reset.mem Config.fontBase font.toList)

/-- What a boot answers (60_exceptions.md R267): a Running state, or the error of a rejected ROM with its kind and its
recorded info. A rejected ROM has no instruction address and no word to record (log entry 11). -/
inductive BootResult where
  | started (s : State)
  | rejected (kind : ErrorKind) (info : Nat)
  deriving DecidableEq, Repr

/-- Loads a ROM that fits: its bytes go to 0x200 and up (70_reset_and_hazards.md R283). -/
def loadRom (rom : List Byte) (s : State) : State := s.setMem (memWrite s.mem Config.programStart rom)

/-- Boot with a FONT and a ROM, the font first; a ROM over 3584 bytes is rejected and the core does not run
(70_reset_and_hazards.md R280 to R283). -/
def boot (font : Font) (rom : List Byte) : BootResult :=
  if romFits rom.length then .started (loadRom rom (State.resetWith font)) else .rejected .romTooLarge rom.length

end Sys2Proof.Machine
end

