-- ==== Sys2Proof/Safety.lean ====
section
/-! DEFINITION. What the statements about the core are said in: the invariant that every step keeps, what a safe run is,
the frame predicates, and the words of the rules that no definition of the machine uses. -/

namespace Sys2Proof.Machine

/-- What holds in every state a run reaches: the memory's canonical form (10_state.md R36), the bound of `pc`
(10_state.md R25), the bound of a pushed return address (41_control.md R121), and the precise `pc` of a halted core
(60_exceptions.md R243). The other bounds of 10_state.md R36 are the types of `State`. -/
structure Inv (s : State) : Prop where
  memory : Memory.wf s.mem
  counter : s.pc.toNat ≤ 0x10FE
  slots : ∀ j : Fin 16, (s.stack[j]).toNat ≤ 0x1000
  halted : ∀ err, s.status = .halted err → err.addr = s.pc

/-- A run is safe so long as the core is Running (60_exceptions.md R241: Halted is terminal and faulted). -/
def Running (s : State) : Prop := s.status = .running

/-- The pieces of the state that a frame speaks about. `signal` is no piece: every completed instruction writes it. -/
inductive Piece where
  | regs | mem | index | pc | stack | delay | sound | screen | status | keys | rand | ticks
  deriving DecidableEq, Repr

/-- The piece is the same after as before. Memory is compared byte by byte, the screen pixel by pixel, the registers and
the stack slot by slot. -/
def Same (s t : State) : Piece → Prop
  | .regs => ∀ r, t.reg r = s.reg r
  | .mem => ∀ a, memReadByte t.mem a = memReadByte s.mem a
  | .index => t.regI = s.regI
  | .pc => t.pc = s.pc
  | .stack => t.sp = s.sp ∧ ∀ j : Fin 16, t.stack[j] = s.stack[j]
  | .delay => t.dt = s.dt
  | .sound => t.st = s.st
  | .screen => ∀ r c, pixel t.fb r c = pixel s.fb r c
  | .status => t.status = s.status
  | .keys => t.keyQueries = s.keyQueries
  | .rand => t.randDraws = s.randDraws
  | .ticks => t.tickChecks = s.tickChecks

/-- Every piece but the listed ones is the same (the frame rule, 40_cycle.md R102). -/
def SameBut (changed : List Piece) (s t : State) : Prop := ∀ p, p ∉ changed → Same s t p

/-- The frame of an instruction that may end in an error, from the state `s` before it to its next state `t`: only the
listed pieces, `pc` and `status` may differ; and when the core was Running, only the listed pieces if the instruction
completed, only `pc` and `status` if it ended in an error (40_cycle.md R102, R103; 60_exceptions.md R243). -/
def SameButOrHalts (changed : List Piece) (s t : State) : Prop :=
  SameBut (.pc :: .status :: changed) s t ∧
  (s.status = .running →
    (t.status = .running → SameBut changed s t) ∧
    ∀ err, t.status = .halted err → SameBut [.pc, .status] s t)

/-- Every register but the listed ones is the same. -/
def SameRegsBut (changed : List RegIdx) (s t : State) : Prop := ∀ r, r ∉ changed → t.reg r = s.reg r

/-- Every byte of memory outside the `n` bytes from `lo` is the same. -/
def SameMemOutside (lo n : Nat) (s t : State) : Prop :=
  ∀ a, ¬(lo ≤ a ∧ a < lo + n) → memReadByte t.mem a = memReadByte s.mem a

/-- Every word that the mask and match of a row select decodes to the row's variant (30_encoding.md R74). -/
def DecodesAs (pattern mask : Word) (make : Word → Instr) : Prop :=
  ∀ w : Word, w &&& mask = pattern → decodeWord w = .variant (make w)

/-- The `None` residue as 30_encoding.md R80 lists it, family by family. -/
def IsResidueWord (w : Word) : Prop :=
  (w.toNat ≤ 0x0FFF ∧ w ≠ 0x00E0 ∧ w ≠ 0x00EE) ∨
  (fieldOp w = 0x8 ∧ (fieldN w).toNat ∈ [0x8, 0x9, 0xA, 0xB, 0xC, 0xD, 0xF]) ∨
  (fieldOp w = 0xE ∧ (fieldKK w).toNat ∉ [0x9E, 0xA1]) ∨
  (fieldOp w = 0xF ∧ (fieldKK w).toNat ∉ [0x07, 0x0A, 0x15, 0x18, 0x1E, 0x29, 0x33, 0x55, 0x65])

/-- Every one of the `n` bytes from `I` is inside the address space (20_memory.md R52); nothing is asked when `n` is 0. -/
def BlockFits (s : State) (n : Nat) : Prop := ∀ k, k < n → s.regI.toNat + k ≤ 0xFFF

/-- The core is Running and a fetch at `pc` reads the word `w` (40_cycle.md R100, 20_memory.md R53). -/
def Fetches (s : State) (w : Word) : Prop :=
  s.status = .running ∧ s.pc.toNat ≤ 0xFFE ∧ memReadWord s.mem s.pc.toNat = w

/-- The sprite bit of 44_display.md R173 that lands on row `r` and column `c`: bit 7 − b of byte k, when the row is
cy + k with k below n and the column is cx + b with b below 8. `cx` and `cy` are the wrapped start position (R172). -/
def spriteBitAt (s : State) (x y : RegIdx) (n : Nibble) (r c : Nat) : Bool :=
  let cx := (s.reg x).toNat % 64
  let cy := (s.reg y).toNat % 32
  decide (cy ≤ r ∧ r < cy + n.toNat ∧ cx ≤ c ∧ c < cx + 8) &&
    (memReadByte s.mem (s.regI.toNat + (r - cy))).getLsbD (7 - (c - cx))

/-- The `pc` column of 10_state.md R26 for an instruction at `s.pc` in the state `s` before its cycle. -/
def pcAfter (s : State) : Instr → Word
  | .jump nnn => nnn.setWidth 16
  | .gotoSub nnn => nnn.setWidth 16
  | .jumpWithOffset nnn => nnn.setWidth 16 + (s.reg 0).setWidth 16
  | .returnSub => s.stack.toList.getD (s.sp.val - 1) 0
  | .skipEqual x kk => if s.reg x = kk then s.pc + 4 else s.pc + 2
  | .skipNotEqual x kk => if s.reg x ≠ kk then s.pc + 4 else s.pc + 2
  | .skipVXEqualVY x y _ => if s.reg x = s.reg y then s.pc + 4 else s.pc + 2
  | .skipVXNotEqualVY x y _ => if s.reg x ≠ s.reg y then s.pc + 4 else s.pc + 2
  | .skipIfKey x => if keyEquals (Config.key s.keyQueries) (s.reg x) = true then s.pc + 4 else s.pc + 2
  | .skipIfNotKey x => if keyEquals (Config.key s.keyQueries) (s.reg x) = false then s.pc + 4 else s.pc + 2
  | .getKey _ => if Config.key s.keyQueries = none then s.pc else s.pc + 2
  | .clear | .setVX _ _ | .addVX _ _ | .move _ _ | .or _ _ | .and _ _ | .xor _ _ | .addReg _ _ => s.pc + 2
  | .subVYFromVX _ _ | .shiftRight _ _ | .subVXFromVY _ _ | .shiftLeft _ _ | .setI _ | .random _ _ => s.pc + 2
  | .draw _ _ _ | .getDT _ | .setDT _ | .setST _ | .addI _ | .fontChar _ => s.pc + 2
  | .bcdConvert _ | .storeRegs _ | .loadRegs _ => s.pc + 2

end Sys2Proof.Machine
end

