-- ==== Sys2Proof/Certificates/Slice0/Obligations.lean ====
section
/-! DEFINITION. The statements about the core, one `def Obligations.<Name> : Prop` each. A statement that rests on a
decision the spec marks as its own (92_eei_decisions.md) or on a log entry of the model says so in its docstring. Wherever a
statement names the signal a cycle returns, it reads it off the field that holds it (log entry 3). -/

open Sys2Proof Sys2Proof.Machine

/-- Every instruction, at every value of its operands, is what the decoder reads from its encoding.
Decode and encode agree (30_encoding.md R72, R74; byte order 20_memory.md R55): no bit of an operand is dropped. -/
def Obligations.EncodedInstructionDecodesToItself : Prop :=
  ∀ (i : Instr) (rest : List Byte),
    decodeWord (encodeWord i) = .variant i ∧ decodeBytes (encode i ++ rest) = .ok (.variant i, rest)

/-- A word that decodes to an instruction is that instruction's encoding.
The other direction of the round trip (30_encoding.md R71, R74; ignored fields are kept as operands, log entry 8). -/
def Obligations.DecodedWordEncodesBack : Prop :=
  ∀ (w : Word) (i : Instr), decodeWord w = .variant i → encodeWord i = w

/-- The decode algorithm agrees with the match and mask table of the decode map, row by row.
30_encoding.md R74, whole: the algorithm (R83) is equivalent to the table. That the ignored fields stand as operands (i of 5xy? and 9xy?, y
of the shifts) is the model's form of an instruction, log entry 8; that they change nothing is R74's. -/
def Obligations.DecoderFollowsTheDecodeMap : Prop :=
  opcodeRows.length = 34 ∧
  (∀ (w : Word) (r : OpcodeRow), r ∈ opcodeRows → w &&& r.mask = r.pattern → decodeWord w = .variant (r.make w)) ∧
  opcodeRows.Pairwise (fun r q => ∀ w : Word, ¬(w &&& r.mask = r.pattern ∧ w &&& q.mask = q.pattern)) ∧
  (∀ w : Word, (∀ r ∈ opcodeRows, w &&& r.mask ≠ r.pattern) → decodeWord w = .noneWord) ∧
  (∀ (x y y' : RegIdx) (i i' : Nibble) (s : State),
    exec (.skipVXEqualVY x y i) s = exec (.skipVXEqualVY x y i') s ∧
    exec (.skipVXNotEqualVY x y i) s = exec (.skipVXNotEqualVY x y i') s ∧
    exec (.shiftRight x y) s = exec (.shiftRight x y') s ∧ exec (.shiftLeft x y) s = exec (.shiftLeft x y') s)

/-- The six fields of a word are its bit ranges as unsigned numbers, and they overlap as the rule says.
30_encoding.md R71. -/
def Obligations.FieldsAreUnsignedBitRangesOfTheWord : Prop :=
  ∀ w : Word,
    (fieldOp w).toNat = w.toNat / 2 ^ 12 ∧ (fieldX w).toNat = w.toNat / 2 ^ 8 % 2 ^ 4 ∧
    (fieldY w).toNat = w.toNat / 2 ^ 4 % 2 ^ 4 ∧ (fieldN w).toNat = w.toNat % 2 ^ 4 ∧
    (fieldKK w).toNat = w.toNat % 2 ^ 8 ∧ (fieldNNN w).toNat = w.toNat % 2 ^ 12 ∧
    fieldKK w = fieldY w ++ fieldN w ∧ fieldNNN w = fieldX w ++ fieldY w ++ fieldN w

/-- Families 0, 8, E and F select a variant or None by sub-case; every other family is one variant whatever its low bits.
30_encoding.md R75 to R79. That the ignored fields stand as operands is the model's form of an instruction, log entry 8. -/
def Obligations.FamiliesSelectTheirVariants : Prop :=
  ∀ w : Word,
    (fieldOp w = 0x0 →
      (w = 0x00E0 → decodeWord w = .variant .clear) ∧ (w = 0x00EE → decodeWord w = .variant .returnSub) ∧
      (w ≠ 0x00E0 → w ≠ 0x00EE → decodeWord w = .noneWord)) ∧
    (fieldOp w = 0x8 →
      (fieldN w = 0x0 → decodeWord w = .variant (.move (fieldX w) (fieldY w))) ∧
      (fieldN w = 0x1 → decodeWord w = .variant (.or (fieldX w) (fieldY w))) ∧
      (fieldN w = 0x2 → decodeWord w = .variant (.and (fieldX w) (fieldY w))) ∧
      (fieldN w = 0x3 → decodeWord w = .variant (.xor (fieldX w) (fieldY w))) ∧
      (fieldN w = 0x4 → decodeWord w = .variant (.addReg (fieldX w) (fieldY w))) ∧
      (fieldN w = 0x5 → decodeWord w = .variant (.subVYFromVX (fieldX w) (fieldY w))) ∧
      (fieldN w = 0x6 → decodeWord w = .variant (.shiftRight (fieldX w) (fieldY w))) ∧
      (fieldN w = 0x7 → decodeWord w = .variant (.subVXFromVY (fieldX w) (fieldY w))) ∧
      (fieldN w = 0xE → decodeWord w = .variant (.shiftLeft (fieldX w) (fieldY w))) ∧
      ((fieldN w).toNat ∈ [0x8, 0x9, 0xA, 0xB, 0xC, 0xD, 0xF] → decodeWord w = .noneWord)) ∧
    (fieldOp w = 0xE →
      (fieldKK w = 0x9E → decodeWord w = .variant (.skipIfKey (fieldX w))) ∧
      (fieldKK w = 0xA1 → decodeWord w = .variant (.skipIfNotKey (fieldX w))) ∧
      ((fieldKK w).toNat ∉ [0x9E, 0xA1] → decodeWord w = .noneWord)) ∧
    (fieldOp w = 0xF →
      (fieldKK w = 0x07 → decodeWord w = .variant (.getDT (fieldX w))) ∧
      (fieldKK w = 0x15 → decodeWord w = .variant (.setDT (fieldX w))) ∧
      (fieldKK w = 0x18 → decodeWord w = .variant (.setST (fieldX w))) ∧
      (fieldKK w = 0x1E → decodeWord w = .variant (.addI (fieldX w))) ∧
      (fieldKK w = 0x0A → decodeWord w = .variant (.getKey (fieldX w))) ∧
      (fieldKK w = 0x29 → decodeWord w = .variant (.fontChar (fieldX w))) ∧
      (fieldKK w = 0x33 → decodeWord w = .variant (.bcdConvert (fieldX w))) ∧
      (fieldKK w = 0x55 → decodeWord w = .variant (.storeRegs (fieldX w))) ∧
      (fieldKK w = 0x65 → decodeWord w = .variant (.loadRegs (fieldX w))) ∧
      ((fieldKK w).toNat ∉ [0x07, 0x0A, 0x15, 0x18, 0x1E, 0x29, 0x33, 0x55, 0x65] → decodeWord w = .noneWord)) ∧
    (fieldOp w = 0x1 → decodeWord w = .variant (.jump (fieldNNN w))) ∧
    (fieldOp w = 0x2 → decodeWord w = .variant (.gotoSub (fieldNNN w))) ∧
    (fieldOp w = 0x3 → decodeWord w = .variant (.skipEqual (fieldX w) (fieldKK w))) ∧
    (fieldOp w = 0x4 → decodeWord w = .variant (.skipNotEqual (fieldX w) (fieldKK w))) ∧
    (fieldOp w = 0x5 → decodeWord w = .variant (.skipVXEqualVY (fieldX w) (fieldY w) (fieldN w))) ∧
    (fieldOp w = 0x6 → decodeWord w = .variant (.setVX (fieldX w) (fieldKK w))) ∧
    (fieldOp w = 0x7 → decodeWord w = .variant (.addVX (fieldX w) (fieldKK w))) ∧
    (fieldOp w = 0x9 → decodeWord w = .variant (.skipVXNotEqualVY (fieldX w) (fieldY w) (fieldN w))) ∧
    (fieldOp w = 0xA → decodeWord w = .variant (.setI (fieldNNN w))) ∧
    (fieldOp w = 0xB → decodeWord w = .variant (.jumpWithOffset (fieldNNN w))) ∧
    (fieldOp w = 0xC → decodeWord w = .variant (.random (fieldX w) (fieldKK w))) ∧
    (fieldOp w = 0xD → decodeWord w = .variant (.draw (fieldX w) (fieldY w) (fieldN w)))

/-- The words that decode to None are exactly those the residue table lists.
The table of 30_encoding.md R80, which the spec marks as derived. -/
def Obligations.NoneResidueIsExactlyTheListedWords : Prop :=
  ∀ w : Word, decodeWord w = .noneWord ↔ IsResidueWord w

/-- No 16-bit word decodes to the Error sentinel.
30_encoding.md R81, which the spec marks as derived (90_conflicts.md C4). -/
def Obligations.NoWordDecodesToTheErrorSentinel : Prop :=
  ∀ w : Word, decodeWord w ≠ .errorFamily

/-- A few words of the decode vectors, one or more for each top nibble, decode as the vectors say.
95_test_vectors.md, decode vectors L2-E. The last operand of 512F and of 9AB5 is the ignored field, log entry 8. -/
def Obligations.SampleWordsDecodeAsTheVectorsSay : Prop :=
  decodeBytes [0x00, 0xE0] = .ok (.variant .clear, []) ∧
  decodeBytes [0x10, 0xEE] = .ok (.variant (.jump 0x0EE), []) ∧
  decodeBytes [0x2F, 0xFF] = .ok (.variant (.gotoSub 0xFFF), []) ∧
  decodeBytes [0x3A, 0x7F] = .ok (.variant (.skipEqual 0xA 0x7F), []) ∧
  decodeBytes [0x40, 0x00] = .ok (.variant (.skipNotEqual 0 0), []) ∧
  decodeBytes [0x51, 0x2F] = .ok (.variant (.skipVXEqualVY 1 2 0xF), []) ∧
  decodeBytes [0x6F, 0xFF] = .ok (.variant (.setVX 0xF 0xFF), []) ∧
  decodeBytes [0x70, 0x01] = .ok (.variant (.addVX 0 1), []) ∧
  decodeBytes [0x81, 0x24] = .ok (.variant (.addReg 1 2), []) ∧
  decodeBytes [0x9A, 0xB5] = .ok (.variant (.skipVXNotEqualVY 0xA 0xB 0x5), []) ∧
  decodeBytes [0xA0, 0x00] = .ok (.variant (.setI 0), []) ∧
  decodeBytes [0xBF, 0x00] = .ok (.variant (.jumpWithOffset 0xF00), []) ∧
  decodeBytes [0xC5, 0xAA] = .ok (.variant (.random 5 0xAA), []) ∧
  decodeBytes [0xD1, 0x20] = .ok (.variant (.draw 1 2 0), []) ∧
  decodeBytes [0xE3, 0x9E] = .ok (.variant (.skipIfKey 3), []) ∧
  decodeBytes [0xF4, 0x07] = .ok (.variant (.getDT 4), []) ∧
  decodeBytes [0xF4, 0x33] = .ok (.variant (.bcdConvert 4), [])

/-- Reading a block gives the bytes last written to it; every other byte is as it was.
20_memory.md R60 (the spec's own decision D25) over MemRead and MemWrite of 00_scope.md R12. The premise is the memory clause of the invariant. -/
def Obligations.BlockReadGivesTheBlockWritten : Prop :=
  ∀ (m : Memory) (a : Nat) (bs : List Byte), Memory.wf m → a + bs.length ≤ 4096 →
    memRead (memWrite m a bs) a bs.length = bs ∧
    ∀ b, ¬(a ≤ b ∧ b < a + bs.length) → memReadByte (memWrite m a bs) b = memReadByte m b

/-- The word at an address has its first byte as the high byte.
20_memory.md R55, which the spec marks as derived. -/
def Obligations.FetchedWordIsBigEndian : Prop :=
  ∀ (m : Memory) (a : Nat),
    (memReadWord m a).toNat = 256 * (memReadByte m a).toNat + (memReadByte m (a + 1)).toNat

/-- A StoreRegs that writes over the next instruction changes what the very next cycle fetches.
20_memory.md R62, fetch coherence (the spec's own decision D24). -/
def Obligations.StoreIsSeenByTheNextFetch : Prop :=
  ∀ (s : State) (x : RegIdx) (k : Nat), Memory.wf s.mem → Fetches s (encodeWord (.storeRegs x)) →
    BlockFits s (x.toNat + 1) → s.pc.toNat + 2 = s.regI.toNat + k → k < x.toNat →
    ∃ t, step s = .next t ∧ t.pc = s.pc + 2 ∧
      memReadWord t.mem t.pc.toNat = s.reg (BitVec.ofNat 4 k) ++ s.reg (BitVec.ofNat 4 (k + 1))

/-- After reset with any FONT memory reads as that FONT at 0x050 to 0x09F and as 0 elsewhere; State.reset is the default FONT's.
10_state.md R40 and R41, for every value of the OPEN parameter FONT (the spec's own decision D20). The default's bytes are PRESUMED (log
entry 5), and the statement says nothing of them. -/
def Obligations.ResetMemoryHoldsFontAndZeros : Prop :=
  (∀ font : Font,
    (∀ k (h : k < 80), memReadByte (State.resetWith font).mem (0x50 + k) = font[k]) ∧
    ∀ a, a < 4096 → (a < 0x50 ∨ 0x9F < a) → memReadByte (State.resetWith font).mem a = 0) ∧
  State.resetWith defaultFont = State.reset

/-- After any accepted boot the first cycle fetches, decodes and executes the word at 0x200.
70_reset_and_hazards.md R284. That the word runs with pc already 0x202 and that the timer check follows is 40_cycle.md R100, R107, R109 (the
spec's own decisions D2, D15; log entries 10 and 13). -/
def Obligations.FirstCycleFetchesAtProgramStart : Prop :=
  ∀ (font : Font) (rom : List Byte) (s : State), boot font rom = .started s →
    s.pc = 0x200 ∧
    step s = finishCycle (execDecoded (memReadWord s.mem 0x200) (decodeWord (memReadWord s.mem 0x200)) (s.setPc 0x202))

/-- Reset leaves pc 0x200, sp 0, a blank screen, status Running, and 0 in V, I, DT, ST and the stack (log entry 6).
10_state.md R40, for every value of the parameter FONT; the zeros of V, I, DT, ST and the stack are the spec's own decision D1 (log entry 6). -/
def Obligations.ResetComponentsHoldTheirValues : Prop :=
  ∀ (font : Font) (s : State), s = State.resetWith font →
    s.pc = 0x200 ∧ s.sp = 0 ∧ s.status = .running ∧ (∀ r c, pixel s.fb r c = false) ∧
    (∀ r, s.reg r = 0) ∧ s.regI = 0 ∧ s.dt = 0 ∧ s.st = 0 ∧ ∀ j : Fin 16, s.stack[j] = 0

/-- A ROM of at most 3584 bytes is loaded from 0x200 and the invariant holds; a longer one is rejected with its length.
70_reset_and_hazards.md R283 (the spec's own decision D30); the code 5 is its own decision D12 (60_exceptions.md R240). That a rejected
boot answers the kind and the length and no state is the model's choice, log entry 11. -/
def Obligations.BootLoadsTheRomOrRejectsIt : Prop :=
  ∀ (font : Font) (rom : List Byte),
    (rom.length ≤ 3584 → ∃ s, boot font rom = .started s ∧ s.status = .running ∧ Inv s ∧
      (∀ k (h : k < rom.length), memReadByte s.mem (0x200 + k) = rom[k]) ∧
      (∀ a, a < 0x200 ∨ 0x200 + rom.length ≤ a → memReadByte s.mem a = memReadByte (State.resetWith font).mem a)) ∧
    (3584 < rom.length → boot font rom = .rejected .romTooLarge rom.length ∧ errorCode .romTooLarge = 5)

/-- The invariant holds at reset.
The start of the invariant of 10_state.md R36 and R25. -/
def Obligations.ResetMeetsTheInvariant : Prop :=
  Inv State.reset ∧ ∀ font : Font, Inv (State.resetWith font)

/-- A step runs the instruction that the two bytes at pc decode to, in the state with pc advanced by 2.
40_cycle.md R109, which the spec marks as derived (R100 is its own decision D2, R107 its own decision D15). How exec and the timer check
join in one step is log entry 13. -/
def Obligations.StepRunsTheDecodedInstruction : Prop :=
  ∀ (s : State) (i : Instr), s.status = .running → s.pc.toNat ≤ 0xFFE →
    decodeBytes (memRead s.mem s.pc.toNat 2) = .ok (.variant i, []) →
    ∃ u, exec i (s.setPc (s.pc + 2)) = .next u ∧
      (u.status = .running → step s = .next (timerCheck u)) ∧
      (∀ err, u.status = .halted err → step s = .next u)

/-- Every None word only advances pc by 2, returns NoSignal, and the cycle's timer check still runs.
47_noop.md R230. -/
def Obligations.NoneWordIsANoOp : Prop :=
  ∀ (s : State) (w : Word), Fetches s w → IsResidueWord w →
    step s = .next (timerCheck { s with pc := s.pc + 2, signal := some .noSignal })

/-- A fetch at pc above 0xFFE halts with LoadError, 0x1000 for pc = 0xFFF and pc itself above, and nothing else changes.
20_memory.md R53 (the spec's own decisions D4, D5); the Halted status and the record are 60_exceptions.md R241, R242 and 40_cycle.md R109
(decision D11). That the error is a next state is log entry 4; that the signal field keeps its value is log entry 3. -/
def Obligations.FetchOutsideMemoryHalts : Prop :=
  ∀ s : State, s.status = .running → 0xFFE < s.pc.toNat →
    step s = .next { s with status := .halted ⟨.addressOutOfRange, s.pc, none, some (if s.pc = 0xFFF then 0x1000 else s.pc.toNat)⟩ }

/-- A halted core takes no further cycle: step stops with the error record.
60_exceptions.md R241 (the spec's own decision D11); that no step is a fault is the model's choice, log entry 4. -/
def Obligations.HaltedCoreTakesNoStep : Prop :=
  ∀ (s : State) (err : ErrorRecord), s.status = .halted err → step s = .fault (.halted err)

/-- At Halted(err) the state is exactly the state before the failing cycle, and the record names its pc and word.
60_exceptions.md R242, R243 (the spec's own decisions D6, D11). That the error is a next state is log entry 4. -/
def Obligations.ErrorsArePrecise : Prop :=
  ∀ (s t : State) (err : ErrorRecord), step s = .next t → t.status = .halted err →
    t = { s with status := .halted err } ∧ err.addr = s.pc ∧
    err.word = if s.pc.toNat ≤ 0xFFE then some (memReadWord s.mem s.pc.toNat) else none

/-- A step halts only for a failed fetch, a full or empty call stack, or a block outside memory, with the listed code.
60_exceptions.md R240 (the spec's own decision D12), R241 (decision D11) and R244. That the error is a next state is log entry 4. -/
def Obligations.OnlyTheListedErrorsAreRaised : Prop :=
  ∀ (s t : State) (err : ErrorRecord), step s = .next t → t.status = .halted err →
    (0xFFE < s.pc.toNat ∧ errorCode err.kind = 4) ∨
    ∃ i, decodeWord (memReadWord s.mem s.pc.toNat) = .variant i ∧
      match i with
      | .gotoSub _ => s.sp.val = 16 ∧ errorCode err.kind = 2 ∧ err.info = none
      | .returnSub => s.sp.val = 0 ∧ errorCode err.kind = 3 ∧ err.info = none
      | .draw _ _ n => ¬BlockFits s n.toNat ∧ errorCode err.kind = 4
      | .bcdConvert _ => ¬BlockFits s 3 ∧ errorCode err.kind = 4
      | .storeRegs x => ¬BlockFits s (x.toNat + 1) ∧ errorCode err.kind = 4
      | .loadRegs x => ¬BlockFits s (x.toNat + 1) ∧ errorCode err.kind = 4
      | _ => False

/-- Every step keeps the invariant: canonical memory, pc at most 0x10FE, stack slots at most 0x1000, a precise halted pc.
10_state.md R36 and R25 (both marked as derived by the spec), 41_control.md R121, 60_exceptions.md R243: an inductive invariant of the whole machine. -/
def Obligations.EveryStepKeepsTheInvariant : Prop :=
  ∀ s t : State, Inv s → step s = .next t → Inv t

/-- A completed cycle takes one TICK answer and lowers each nonzero timer by one if it is true; an error cycle takes none.
40_cycle.md R107 and 60_exceptions.md R255 (the spec's own decision D15). It holds for every answer of the TICK oracle (log entry 1).
That an error is a next state is log entry 4. -/
def Obligations.TimersCountDownAtTicksOnly : Prop :=
  ∀ s t : State, step s = .next t →
    (t.status = .running →
      t.tickChecks = s.tickChecks + 1 ∧
      t.dt.toNat = (match decodeWord (memReadWord s.mem s.pc.toNat) with
        | .variant (.setDT x) => (s.reg x).toNat
        | _ => s.dt.toNat) - (if Config.tick s.tickChecks then 1 else 0) ∧
      t.st.toNat = (match decodeWord (memReadWord s.mem s.pc.toNat) with
        | .variant (.setST x) => (s.reg x).toNat
        | _ => s.st.toNat) - (if Config.tick s.tickChecks then 1 else 0)) ∧
    (∀ err, t.status = .halted err → t.tickChecks = s.tickChecks ∧ t.dt = s.dt ∧ t.st = s.st)

/-- A completed instruction leaves pc as the table says: past it, past the skipped word, at its target, or at itself.
The table of 10_state.md R26, which the spec marks as derived (pcAfter in Safety.lean). -/
def Obligations.PcAfterEachInstructionIsAsTabled : Prop :=
  ∀ (s t : State) (i : Instr), step s = .next t → t.status = .running →
    decodeWord (memReadWord s.mem s.pc.toNat) = .variant i → t.pc = pcAfter s i

/-- The address an address check reports is the lowest of the block's addresses above 0xFFF.
20_memory.md R52 (the spec's own decisions D5, D6). -/
def Obligations.LowestAddressOutsideMemoryIsReported : Prop :=
  ∀ (base : Word) (n bad : Nat), badAddress base n = some bad ↔
    (∃ k, k < n ∧ bad = base.toNat + k) ∧ 0xFFF < bad ∧
    ∀ k, k < n → 0xFFF < base.toNat + k → bad ≤ base.toNat + k

/-- A completed Clear returns ClearScreen, Draw returns DrawFrame of the new screen, everything else returns NoSignal.
60_exceptions.md R262; the signal is read off the state's signal field (log entry 3). -/
def Obligations.EachCompletedCycleReturnsItsSignal : Prop :=
  ∀ s t : State, step s = .next t → t.status = .running →
    t.signal = some (match decodeWord (memReadWord s.mem s.pc.toNat) with
      | .variant .clear => .clearScreen
      | .variant (.draw _ _ _) => .drawFrame t.fb
      | _ => .noSignal)

/-- Jump decodes from 1nnn and completes with pc = nnn and no flag.
41_control.md R120. -/
def Obligations.JumpSetsPcToTheTarget : Prop :=
  DecodesAs 0x1000 0xF000 (fun w => .jump (fieldNNN w)) ∧
  ∀ (nnn : Addr) (s : State), ∃ t, exec (.jump nnn) s = .next t ∧ t.pc.toNat = nnn.toNat ∧
    t.reg 0xF = s.reg 0xF ∧ t.status = s.status ∧ t.signal = some .noSignal

/-- JumpWithOffset decodes from Bnnn and completes with pc = nnn + V0, never reduced.
41_control.md R128; that no target is an error here is the spec's own decision D5. -/
def Obligations.JumpWithOffsetAddsV0 : Prop :=
  DecodesAs 0xB000 0xF000 (fun w => .jumpWithOffset (fieldNNN w)) ∧
  ∀ (nnn : Addr) (s : State), ∃ t, exec (.jumpWithOffset nnn) s = .next t ∧
    t.pc.toNat = nnn.toNat + (s.reg 0).toNat ∧ t.pc.toNat ≤ 0x10FE ∧ (∀ r, t.reg r = s.reg r) ∧
    t.status = s.status ∧ t.signal = some .noSignal

/-- GotoSub pushes the advanced pc and jumps; with a full stack it raises StackOverflow, pushes nothing and has pc = a.
41_control.md R121; pc on entry is a + 2 (the spec's own decision D2), so pc − 2 is a. The Halted status with a full stack is 40_cycle.md R103
and 60_exceptions.md R241, R242 (decisions D6, D11); that it is a next state is log entry 4. -/
def Obligations.GotoSubPushesTheReturnAddress : Prop :=
  DecodesAs 0x2000 0xF000 (fun w => .gotoSub (fieldNNN w)) ∧
  (∀ (nnn : Addr) (s : State), s.sp.val < 16 → ∃ t, exec (.gotoSub nnn) s = .next t ∧
    (∀ j : Fin 16, j.val = s.sp.val → t.stack[j] = s.pc) ∧ t.sp.val = s.sp.val + 1 ∧
    t.pc.toNat = nnn.toNat ∧ (∀ r, t.reg r = s.reg r) ∧ t.status = s.status ∧ t.signal = some .noSignal) ∧
  ∀ (nnn : Addr) (s : State), s.sp.val = 16 → ∃ t err, exec (.gotoSub nnn) s = .next t ∧ t.status = .halted err ∧
    err.kind = .stackOverflow ∧ err.addr = s.pc - 2 ∧ t.pc = s.pc - 2 ∧ t.sp = s.sp ∧
    ∀ j : Fin 16, t.stack[j] = s.stack[j]

/-- ReturnSub decodes from 00EE, pops into pc and keeps the slot; with an empty stack it raises StackUnderflow.
41_control.md R122. The Halted record with an empty stack is 40_cycle.md R103 and 60_exceptions.md R240, R242 (the spec's own decisions D6,
D11); that it is a next state is log entry 4, and that its word is the instruction's encoding is log entry 12. -/
def Obligations.ReturnSubPopsTheReturnAddress : Prop :=
  DecodesAs 0x00EE 0xFFFF (fun _ => .returnSub) ∧
  (∀ (s : State) (j : Fin 16), s.sp.val = j.val + 1 → ∃ t, exec .returnSub s = .next t ∧ t.pc = s.stack[j] ∧
    t.sp.val = j.val ∧ t.stack[j] = s.stack[j] ∧ (∀ r, t.reg r = s.reg r) ∧
    t.status = s.status ∧ t.signal = some .noSignal) ∧
  ∀ s : State, s.sp.val = 0 → exec .returnSub s =
    .next { s with pc := s.pc - 2, status := .halted ⟨.stackUnderflow, s.pc - 2, some 0x00EE, none⟩ }

/-- SkipEqual and SkipNotEqual add 2 to pc exactly when Vx equals, or differs from, kk.
41_control.md R123, R124. -/
def Obligations.ImmediateSkipsCompareWithTheImmediate : Prop :=
  DecodesAs 0x3000 0xF000 (fun w => .skipEqual (fieldX w) (fieldKK w)) ∧
  DecodesAs 0x4000 0xF000 (fun w => .skipNotEqual (fieldX w) (fieldKK w)) ∧
  ∀ (x : RegIdx) (kk : Byte) (s : State),
    (∃ t, exec (.skipEqual x kk) s = .next t ∧ t.pc = (if s.reg x = kk then s.pc + 2 else s.pc) ∧
      t.reg 0xF = s.reg 0xF ∧ t.status = s.status ∧ t.signal = some .noSignal) ∧
    (∃ t, exec (.skipNotEqual x kk) s = .next t ∧ t.pc = (if s.reg x = kk then s.pc else s.pc + 2) ∧
      t.reg 0xF = s.reg 0xF ∧ t.status = s.status ∧ t.signal = some .noSignal)

/-- SkipVXEqualVY and SkipVXNotEqualVY compare Vx with Vy and ignore bits 3:0.
41_control.md R125, R126. That the ignored bits stand as an operand is the model's form of an instruction, log entry 8. -/
def Obligations.RegisterSkipsCompareTwoRegisters : Prop :=
  DecodesAs 0x5000 0xF000 (fun w => .skipVXEqualVY (fieldX w) (fieldY w) (fieldN w)) ∧
  DecodesAs 0x9000 0xF000 (fun w => .skipVXNotEqualVY (fieldX w) (fieldY w) (fieldN w)) ∧
  ∀ (x y : RegIdx) (i : Nibble) (s : State),
    (∃ t, exec (.skipVXEqualVY x y i) s = .next t ∧ t.pc = (if s.reg x = s.reg y then s.pc + 2 else s.pc) ∧
      t.reg 0xF = s.reg 0xF ∧ t.status = s.status ∧ t.signal = some .noSignal) ∧
    (∃ t, exec (.skipVXNotEqualVY x y i) s = .next t ∧ t.pc = (if s.reg x = s.reg y then s.pc else s.pc + 2) ∧
      t.reg 0xF = s.reg 0xF ∧ t.status = s.status ∧ t.signal = some .noSignal)

/-- SkipIfKey and SkipIfNotKey take one KEY answer and compare its code with the whole of Vx.
42_keys.md R140 to R142 (the spec's own decisions D16, D33). For every answer of the KEY oracle (log entry 1). -/
def Obligations.KeySkipsCompareTheKeyWithVx : Prop :=
  DecodesAs 0xE09E 0xF0FF (fun w => .skipIfKey (fieldX w)) ∧
  DecodesAs 0xE0A1 0xF0FF (fun w => .skipIfNotKey (fieldX w)) ∧
  ∀ (x : RegIdx) (s : State),
    (∃ t, exec (.skipIfKey x) s = .next t ∧
      t.pc = (match Config.key s.keyQueries with
        | some c => if c.toNat = (s.reg x).toNat then s.pc + 2 else s.pc
        | none => s.pc) ∧
      t.keyQueries = s.keyQueries + 1 ∧ (∀ r, t.reg r = s.reg r) ∧ t.status = s.status ∧
      t.signal = some .noSignal) ∧
    (∃ t, exec (.skipIfNotKey x) s = .next t ∧
      t.pc = (match Config.key s.keyQueries with
        | some c => if c.toNat = (s.reg x).toNat then s.pc else s.pc + 2
        | none => s.pc + 2) ∧
      t.keyQueries = s.keyQueries + 1 ∧ (∀ r, t.reg r = s.reg r) ∧ t.status = s.status ∧
      t.signal = some .noSignal)

/-- GetKey takes one KEY answer: a key goes to Vx and pc moves on, no key puts pc back at the instruction.
42_keys.md R143 (the spec's own decision D21). For every answer of the KEY oracle (log entry 1). -/
def Obligations.GetKeyStoresTheKeyOrWaits : Prop :=
  DecodesAs 0xF00A 0xF0FF (fun w => .getKey (fieldX w)) ∧
  ∀ (x : RegIdx) (s : State), ∃ t, exec (.getKey x) s = .next t ∧
    (match Config.key s.keyQueries with
      | some c => (t.reg x).toNat = c.toNat ∧ t.pc = s.pc
      | none => t.reg x = s.reg x ∧ t.pc = s.pc - 2) ∧
    (∀ r, r ≠ x → t.reg r = s.reg r) ∧ t.keyQueries = s.keyQueries + 1 ∧ t.status = s.status ∧
    t.signal = some .noSignal

/-- SetVX writes kk to Vx, AddVX adds kk to Vx modulo 256, and neither touches VF as a flag.
43_immediate_index.md R150, R151. -/
def Obligations.SetVXAndAddVXWriteVx : Prop :=
  DecodesAs 0x6000 0xF000 (fun w => .setVX (fieldX w) (fieldKK w)) ∧
  DecodesAs 0x7000 0xF000 (fun w => .addVX (fieldX w) (fieldKK w)) ∧
  ∀ (x : RegIdx) (kk : Byte) (s : State),
    (∃ t, exec (.setVX x kk) s = .next t ∧ t.reg x = kk ∧ (x ≠ 0xF → t.reg 0xF = s.reg 0xF) ∧
      t.status = s.status ∧ t.signal = some .noSignal) ∧
    (∃ t, exec (.addVX x kk) s = .next t ∧ (t.reg x).toNat = ((s.reg x).toNat + kk.toNat) % 256 ∧
      (x ≠ 0xF → t.reg 0xF = s.reg 0xF) ∧ t.status = s.status ∧ t.signal = some .noSignal)

/-- SetI decodes from Annn and leaves nnn, zero-extended, in I.
43_immediate_index.md R152. -/
def Obligations.SetIWritesTheIndexRegister : Prop :=
  DecodesAs 0xA000 0xF000 (fun w => .setI (fieldNNN w)) ∧
  ∀ (nnn : Addr) (s : State), ∃ t, exec (.setI nnn) s = .next t ∧ t.regI.toNat = nnn.toNat ∧
    t.regI.toNat ≤ 0xFFF ∧ t.reg 0xF = s.reg 0xF ∧ t.status = s.status ∧ t.signal = some .noSignal

/-- AddI adds the old Vx to I modulo 65536 and sets VF to 1 when the new I is 0x1000 or more, else keeps VF.
43_immediate_index.md R153 (the spec's own decisions D5, D27; operand order D7). -/
def Obligations.AddISetsVFOnOverflowOnly : Prop :=
  DecodesAs 0xF01E 0xF0FF (fun w => .addI (fieldX w)) ∧
  ∀ (x : RegIdx) (s : State), ∃ t, exec (.addI x) s = .next t ∧
    t.regI.toNat = (s.regI.toNat + (s.reg x).toNat) % 65536 ∧
    t.reg 0xF = (if 0x1000 ≤ t.regI.toNat then 1 else s.reg 0xF) ∧ (∀ r, r ≠ 0xF → t.reg r = s.reg r) ∧
    t.status = s.status ∧ t.signal = some .noSignal

/-- FontChar leaves Vx * 5 + 0x50 in I for every Vx, unmasked.
43_immediate_index.md R155 (the spec's own decision D23). -/
def Obligations.FontCharComputesTheGlyphAddress : Prop :=
  DecodesAs 0xF029 0xF0FF (fun w => .fontChar (fieldX w)) ∧
  ∀ (x : RegIdx) (s : State), ∃ t, exec (.fontChar x) s = .next t ∧
    t.regI.toNat = (s.reg x).toNat * 5 + 0x50 ∧ t.regI.toNat ≤ 0x54B ∧ (∀ r, t.reg r = s.reg r) ∧
    t.status = s.status ∧ t.signal = some .noSignal

/-- Random takes one RAND byte and leaves it, masked with kk, in Vx.
43_immediate_index.md R157 (the spec's own decision D17). For every answer of the RAND oracle (log entry 1). -/
def Obligations.RandomMasksOneRandomByte : Prop :=
  DecodesAs 0xC000 0xF000 (fun w => .random (fieldX w) (fieldKK w)) ∧
  ∀ (x : RegIdx) (kk : Byte) (s : State), ∃ t, exec (.random x kk) s = .next t ∧
    (∀ b, (t.reg x).getLsbD b = ((Config.rand s.randDraws).getLsbD b && kk.getLsbD b)) ∧
    (∀ r, r ≠ x → t.reg r = s.reg r) ∧ t.randDraws = s.randDraws + 1 ∧ t.status = s.status ∧
    t.signal = some .noSignal

/-- Clear decodes from 00E0, leaves every pixel 0, returns ClearScreen and touches no register.
44_display.md R170. -/
def Obligations.ClearBlanksTheScreen : Prop :=
  DecodesAs 0x00E0 0xFFFF (fun _ => .clear) ∧
  ∀ s : State, ∃ t, exec .clear s = .next t ∧ (∀ r c, pixel t.fb r c = false) ∧ t.signal = some .clearScreen ∧
    (∀ r, t.reg r = s.reg r) ∧ t.status = s.status

/-- Draw XORs the sprite onto the screen from the wrapped start position, clipped at column 63 and row 31.
44_display.md R171 to R173 (the spec's own decisions D6, D7, D9, D10, D22). -/
def Obligations.DrawTogglesTheSpritePixels : Prop :=
  DecodesAs 0xD000 0xF000 (fun w => .draw (fieldX w) (fieldY w) (fieldN w)) ∧
  ∀ (x y : RegIdx) (n : Nibble) (s : State), BlockFits s n.toNat → ∃ t, exec (.draw x y n) s = .next t ∧
    (∀ r c, r < 32 → c < 64 → pixel t.fb r c = (pixel s.fb r c ^^ spriteBitAt s x y n r c)) ∧
    t.regI = s.regI ∧ (∀ r, r ≠ 0xF → t.reg r = s.reg r) ∧ t.status = s.status

/-- A sprite bit of 1 toggles its pixel, a bit of 0 leaves it, and VF is 1 exactly when some pixel went from 1 to 0.
44_display.md R174; which sprite bit lands where, and which is discarded, is R173 (the spec's own decision D9). -/
def Obligations.DrawSetsVFExactlyOnCollision : Prop :=
  ∀ (x y : RegIdx) (n : Nibble) (s : State), BlockFits s n.toNat → ∃ t, exec (.draw x y n) s = .next t ∧
    (∀ r c, r < 32 → c < 64 → spriteBitAt s x y n r c = true → pixel t.fb r c = !pixel s.fb r c) ∧
    (∀ r c, r < 32 → c < 64 → spriteBitAt s x y n r c = false → pixel t.fb r c = pixel s.fb r c) ∧
    ((∃ r c, r < 32 ∧ c < 64 ∧ pixel s.fb r c = true ∧ pixel t.fb r c = false) → t.reg 0xF = 1) ∧
    ((¬∃ r c, r < 32 ∧ c < 64 ∧ pixel s.fb r c = true ∧ pixel t.fb r c = false) → t.reg 0xF = 0)

/-- Draw returns DrawFrame with the whole framebuffer after the blit, also when no pixel changed.
44_display.md R175. -/
def Obligations.DrawReturnsTheWholeNewScreen : Prop :=
  (∀ (x y : RegIdx) (n : Nibble) (s : State), BlockFits s n.toNat →
    ∃ t, exec (.draw x y n) s = .next t ∧ t.signal = some (.drawFrame t.fb)) ∧
  ∀ (x y : RegIdx) (s : State), ∃ t, exec (.draw x y 0) s = .next t ∧ t.signal = some (.drawFrame t.fb) ∧
    ∀ r c, pixel t.fb r c = pixel s.fb r c

/-- Move, Or, And and Xor leave their bitwise result in Vx and touch no flag.
45_alu.md R190 to R193. -/
def Obligations.MoveAndLogicActBitwise : Prop :=
  DecodesAs 0x8000 0xF00F (fun w => .move (fieldX w) (fieldY w)) ∧
  DecodesAs 0x8001 0xF00F (fun w => .or (fieldX w) (fieldY w)) ∧
  DecodesAs 0x8002 0xF00F (fun w => .and (fieldX w) (fieldY w)) ∧
  DecodesAs 0x8003 0xF00F (fun w => .xor (fieldX w) (fieldY w)) ∧
  ∀ (x y : RegIdx) (s : State),
    (∃ t, exec (.move x y) s = .next t ∧ t.reg x = s.reg y ∧ (x ≠ 0xF → t.reg 0xF = s.reg 0xF) ∧
      t.status = s.status ∧ t.signal = some .noSignal) ∧
    (∃ t, exec (.or x y) s = .next t ∧
      (∀ b, (t.reg x).getLsbD b = ((s.reg x).getLsbD b || (s.reg y).getLsbD b)) ∧
      (x ≠ 0xF → t.reg 0xF = s.reg 0xF) ∧ t.status = s.status ∧ t.signal = some .noSignal) ∧
    (∃ t, exec (.and x y) s = .next t ∧
      (∀ b, (t.reg x).getLsbD b = ((s.reg x).getLsbD b && (s.reg y).getLsbD b)) ∧
      (x ≠ 0xF → t.reg 0xF = s.reg 0xF) ∧ t.status = s.status ∧ t.signal = some .noSignal) ∧
    (∃ t, exec (.xor x y) s = .next t ∧
      (∀ b, (t.reg x).getLsbD b = ((s.reg x).getLsbD b ^^ (s.reg y).getLsbD b)) ∧
      (x ≠ 0xF → t.reg 0xF = s.reg 0xF) ∧ t.status = s.status ∧ t.signal = some .noSignal)

/-- AddReg leaves the sum modulo 256 in Vx and the carry in VF, the carry last.
45_alu.md R194; the order of flag and result is the spec's own decision D8 (90_conflicts.md C3). -/
def Obligations.AddRegLeavesSumAndCarry : Prop :=
  DecodesAs 0x8004 0xF00F (fun w => .addReg (fieldX w) (fieldY w)) ∧
  ∀ (x y : RegIdx) (s : State), ∃ t, exec (.addReg x y) s = .next t ∧
    t.reg 0xF = (if (s.reg x).toNat + (s.reg y).toNat > 255 then 1 else 0) ∧
    (x ≠ 0xF → (t.reg x).toNat = ((s.reg x).toNat + (s.reg y).toNat) % 256) ∧
    (∀ r, r ≠ x → r ≠ 0xF → t.reg r = s.reg r) ∧ t.status = s.status ∧ t.signal = some .noSignal

/-- The subtractions leave the difference modulo 256 in Vx and the no-borrow flag in VF, the flag last.
45_alu.md R195, R197; the order of flag and result is the spec's own decision D8. -/
def Obligations.SubtractionsLeaveDifferenceAndNoBorrow : Prop :=
  DecodesAs 0x8005 0xF00F (fun w => .subVYFromVX (fieldX w) (fieldY w)) ∧
  DecodesAs 0x8007 0xF00F (fun w => .subVXFromVY (fieldX w) (fieldY w)) ∧
  ∀ (x y : RegIdx) (s : State),
    (∃ t, exec (.subVYFromVX x y) s = .next t ∧
      t.reg 0xF = (if (s.reg y).toNat ≤ (s.reg x).toNat then 1 else 0) ∧
      (x ≠ 0xF → ((t.reg x).toNat : Int) = ((s.reg x).toNat - (s.reg y).toNat : Int) % 256) ∧
      (∀ r, r ≠ x → r ≠ 0xF → t.reg r = s.reg r) ∧ t.status = s.status ∧ t.signal = some .noSignal) ∧
    (∃ t, exec (.subVXFromVY x y) s = .next t ∧
      t.reg 0xF = (if (s.reg x).toNat ≤ (s.reg y).toNat then 1 else 0) ∧
      (x ≠ 0xF → ((t.reg x).toNat : Int) = ((s.reg y).toNat - (s.reg x).toNat : Int) % 256) ∧
      (∀ r, r ≠ x → r ≠ 0xF → t.reg r = s.reg r) ∧ t.status = s.status ∧ t.signal = some .noSignal)

/-- The shifts move Vx by one bit, leave the bit shifted out in VF last, and do not use Vy.
45_alu.md R196, R199; the order of flag and result is the spec's own decision D8. The unused y stands as an operand, log entry 8. -/
def Obligations.ShiftsMoveVxByOneBit : Prop :=
  DecodesAs 0x8006 0xF00F (fun w => .shiftRight (fieldX w) (fieldY w)) ∧
  DecodesAs 0x800E 0xF00F (fun w => .shiftLeft (fieldX w) (fieldY w)) ∧
  ∀ (x y : RegIdx) (s : State),
    (∃ t, exec (.shiftRight x y) s = .next t ∧ (t.reg 0xF).toNat = (s.reg x).toNat % 2 ∧
      (x ≠ 0xF → (t.reg x).toNat = (s.reg x).toNat / 2) ∧
      (∀ r, r ≠ x → r ≠ 0xF → t.reg r = s.reg r) ∧ t.status = s.status ∧ t.signal = some .noSignal) ∧
    (∃ t, exec (.shiftLeft x y) s = .next t ∧ (t.reg 0xF).toNat = (s.reg x).toNat / 128 ∧
      (x ≠ 0xF → (t.reg x).toNat = (s.reg x).toNat * 2 % 256) ∧
      (∀ r, r ≠ x → r ≠ 0xF → t.reg r = s.reg r) ∧ t.status = s.status ∧ t.signal = some .noSignal)

/-- Draw, BCDConvert, StoreRegs and LoadRegs whose block leaves memory change nothing and halt with LoadError.
20_memory.md R52 (the spec's own decisions D5, D6); the Halted record is 40_cycle.md R103 and 60_exceptions.md R241, R242 (decision D11).
That the error is a next state is log entry 4; that its word is the instruction's encoding is log entry 12. -/
def Obligations.BlockOutsideMemoryRaisesLoadError : Prop :=
  ∀ s : State,
    (∀ (x y : RegIdx) (n : Nibble), ¬BlockFits s n.toNat → exec (.draw x y n) s =
      .next { s with pc := s.pc - 2, status := .halted ⟨.addressOutOfRange, s.pc - 2, some (encodeWord (.draw x y n)),
                                                       some (max s.regI.toNat 0x1000)⟩ }) ∧
    ∀ x : RegIdx,
      (¬BlockFits s 3 → exec (.bcdConvert x) s =
        .next { s with pc := s.pc - 2, status := .halted ⟨.addressOutOfRange, s.pc - 2, some (encodeWord (.bcdConvert x)),
                                                         some (max s.regI.toNat 0x1000)⟩ }) ∧
      (¬BlockFits s (x.toNat + 1) → exec (.storeRegs x) s =
        .next { s with pc := s.pc - 2, status := .halted ⟨.addressOutOfRange, s.pc - 2, some (encodeWord (.storeRegs x)),
                                                         some (max s.regI.toNat 0x1000)⟩ }) ∧
      (¬BlockFits s (x.toNat + 1) → exec (.loadRegs x) s =
        .next { s with pc := s.pc - 2, status := .halted ⟨.addressOutOfRange, s.pc - 2, some (encodeWord (.loadRegs x)),
                                                         some (max s.regI.toNat 0x1000)⟩ })

/-- BCDConvert writes the hundreds, tens and ones digits of Vx at I, I + 1 and I + 2 and keeps I.
46_memory_timers.md R210 (the spec's own decisions D6, D22). The memory premise is a clause of the invariant. -/
def Obligations.BcdConvertWritesThreeDigits : Prop :=
  DecodesAs 0xF033 0xF0FF (fun w => .bcdConvert (fieldX w)) ∧
  ∀ (x : RegIdx) (s : State), Memory.wf s.mem → BlockFits s 3 → ∃ t, exec (.bcdConvert x) s = .next t ∧
    100 * (memReadByte t.mem s.regI.toNat).toNat + 10 * (memReadByte t.mem (s.regI.toNat + 1)).toNat +
      (memReadByte t.mem (s.regI.toNat + 2)).toNat = (s.reg x).toNat ∧
    (memReadByte t.mem (s.regI.toNat + 1)).toNat < 10 ∧ (memReadByte t.mem (s.regI.toNat + 2)).toNat < 10 ∧
    t.regI = s.regI ∧ (∀ r, t.reg r = s.reg r) ∧ t.status = s.status ∧ t.signal = some .noSignal

/-- StoreRegs copies V0 to Vx inclusive to memory from I, exactly x + 1 bytes, and keeps I.
46_memory_timers.md R211 (the spec's own decisions D6, D22). The memory premise is a clause of the invariant. -/
def Obligations.StoreRegsCopiesV0ToVxIntoMemory : Prop :=
  DecodesAs 0xF055 0xF0FF (fun w => .storeRegs (fieldX w)) ∧
  ∀ (x : RegIdx) (s : State), Memory.wf s.mem → BlockFits s (x.toNat + 1) → ∃ t, exec (.storeRegs x) s = .next t ∧
    (∀ k : RegIdx, k.toNat ≤ x.toNat → memReadByte t.mem (s.regI.toNat + k.toNat) = s.reg k) ∧
    SameMemOutside s.regI.toNat (x.toNat + 1) s t ∧ t.regI = s.regI ∧ (∀ r, t.reg r = s.reg r) ∧
    t.status = s.status ∧ t.signal = some .noSignal

/-- LoadRegs copies memory from I into V0 to Vx inclusive, leaves the registers above Vx alone, and keeps I.
46_memory_timers.md R212 (the spec's own decisions D6, D22). -/
def Obligations.LoadRegsCopiesMemoryIntoV0ToVx : Prop :=
  DecodesAs 0xF065 0xF0FF (fun w => .loadRegs (fieldX w)) ∧
  ∀ (x : RegIdx) (s : State), BlockFits s (x.toNat + 1) → ∃ t, exec (.loadRegs x) s = .next t ∧
    (∀ k : RegIdx, t.reg k = if k.toNat ≤ x.toNat then memReadByte s.mem (s.regI.toNat + k.toNat) else s.reg k) ∧
    t.regI = s.regI ∧ t.status = s.status ∧ t.signal = some .noSignal

/-- GetDT copies DT to Vx, SetDT and SetST copy Vx to DT and ST, before the cycle's timer check.
46_memory_timers.md R213 to R215. -/
def Obligations.TimerTransfersCopyOneByte : Prop :=
  DecodesAs 0xF007 0xF0FF (fun w => .getDT (fieldX w)) ∧
  DecodesAs 0xF015 0xF0FF (fun w => .setDT (fieldX w)) ∧
  DecodesAs 0xF018 0xF0FF (fun w => .setST (fieldX w)) ∧
  ∀ (x : RegIdx) (s : State),
    (∃ t, exec (.getDT x) s = .next t ∧ t.reg x = s.dt ∧ (x ≠ 0xF → t.reg 0xF = s.reg 0xF) ∧
      t.status = s.status ∧ t.signal = some .noSignal) ∧
    (∃ t, exec (.setDT x) s = .next t ∧ t.dt = s.reg x ∧ (timerTick true t).dt.toNat = (s.reg x).toNat - 1 ∧
      t.reg 0xF = s.reg 0xF ∧ t.status = s.status ∧ t.signal = some .noSignal) ∧
    (∃ t, exec (.setST x) s = .next t ∧ t.st = s.reg x ∧ (timerTick true t).st.toNat = (s.reg x).toNat - 1 ∧
      t.reg 0xF = s.reg 0xF ∧ t.status = s.status ∧ t.signal = some .noSignal)

/-- The register instructions change no register but Vx (and VF for the flag instructions) and nothing else.
The frame rule 40_cycle.md R102 (the spec's own decision D22), for the instructions of 10_state.md R23 that write a register and nothing else. -/
def Obligations.RegisterInstructionsFrame : Prop :=
  ∀ (i : Instr) (x y : RegIdx) (kk : Byte) (s t : State), exec i s = .next t →
    (i ∈ [Instr.setVX x kk, .addVX x kk, .move x y, .or x y, .and x y, .xor x y, .getDT x] →
      SameRegsBut [x] s t ∧ SameBut [.regs] s t) ∧
    (i = .random x kk → SameRegsBut [x] s t ∧ SameBut [.regs, .rand] s t) ∧
    (i ∈ [Instr.addReg x y, .subVYFromVX x y, .subVXFromVY x y, .shiftRight x y, .shiftLeft x y] →
      SameRegsBut [x, 0xF] s t ∧ SameBut [.regs] s t)

/-- Jumps and skips change only pc; key skips also the KEY count, GetKey also Vx; calls and returns of a Running core pc and the stack, or in an error pc and status.
The frame rule 40_cycle.md R102 (the spec's own decision D22), for the instructions of 41_control.md and 42_keys.md.
What an error leaves is R103 and 60_exceptions.md R243 (decisions D6, D11; log entry 4). -/
def Obligations.ControlAndKeyInstructionsFrame : Prop :=
  ∀ (i : Instr) (x y : RegIdx) (kk : Byte) (n : Nibble) (nnn : Addr) (s t : State), exec i s = .next t →
    (i ∈ [Instr.jump nnn, .jumpWithOffset nnn, .skipEqual x kk, .skipNotEqual x kk, .skipVXEqualVY x y n,
        .skipVXNotEqualVY x y n] → SameBut [.pc] s t) ∧
    (i ∈ [Instr.skipIfKey x, .skipIfNotKey x] → SameBut [.pc, .keys] s t) ∧
    (i = .getKey x → SameRegsBut [x] s t ∧ SameBut [.regs, .pc, .keys] s t) ∧
    (i ∈ [Instr.gotoSub nnn, .returnSub] → SameButOrHalts [.pc, .stack] s t ∧
      ∀ j : Fin 16, j.val ≠ s.sp.val → t.stack[j] = s.stack[j])

/-- SetI and FontChar change only I, AddI only I and VF, SetDT only DT, SetST only ST.
The frame rule 40_cycle.md R102 (the spec's own decision D22), for the instructions of 43_immediate_index.md and 46_memory_timers.md. -/
def Obligations.IndexAndTimerInstructionsFrame : Prop :=
  ∀ (x : RegIdx) (nnn : Addr) (s t : State),
    (exec (.setI nnn) s = .next t → SameBut [.index] s t) ∧
    (exec (.fontChar x) s = .next t → SameBut [.index] s t) ∧
    (exec (.addI x) s = .next t → SameRegsBut [0xF] s t ∧ SameBut [.index, .regs] s t) ∧
    (exec (.setDT x) s = .next t → SameBut [.delay] s t) ∧
    (exec (.setST x) s = .next t → SameBut [.sound] s t)

/-- On a Running core BCDConvert and StoreRegs change only the block at I, LoadRegs only V0 to Vx, or in an error each only pc and status.
The frame rule 40_cycle.md R102 (the spec's own decision D22). The address stored to is I, the block's length is what each meaning stores.
What an error leaves is R103 and 60_exceptions.md R243 (decisions D6, D11; log entry 4). -/
def Obligations.MemoryBlockInstructionsFrame : Prop :=
  ∀ (x : RegIdx) (s t : State),
    (exec (.bcdConvert x) s = .next t → SameMemOutside s.regI.toNat 3 s t ∧ SameButOrHalts [.mem] s t) ∧
    (exec (.storeRegs x) s = .next t →
      SameMemOutside s.regI.toNat (x.toNat + 1) s t ∧ SameButOrHalts [.mem] s t) ∧
    (exec (.loadRegs x) s = .next t →
      (∀ r : RegIdx, x.toNat < r.toNat → t.reg r = s.reg r) ∧ SameButOrHalts [.regs] s t)

/-- Clear changes only the screen; Draw of a Running core only the screen and VF, or in an error only pc and status.
The frame rule 40_cycle.md R102 (the spec's own decision D22), for the instructions of 44_display.md.
What an error leaves is R103 and 60_exceptions.md R243 (decisions D6, D11; log entry 4). -/
def Obligations.DisplayInstructionsFrame : Prop :=
  ∀ (x y : RegIdx) (n : Nibble) (s t : State),
    (exec .clear s = .next t → SameBut [.screen] s t) ∧
    (exec (.draw x y n) s = .next t → SameRegsBut [0xF] s t ∧ SameButOrHalts [.regs, .screen] s t)

/-- Over a whole step, memory, screen, stack, I, keys and random bytes are touched only by the instructions the rules name.
20_memory.md R51, R59, 10_state.md R27 (decision D22), R28, R31, 60_exceptions.md R261: promises about the whole machine. -/
def Obligations.OnlyNamedInstructionsTouchEachPiece : Prop :=
  ∀ s t : State, step s = .next t →
    (¬Same s t .mem → ∃ x, decodeWord (memReadWord s.mem s.pc.toNat) ∈
      [Decoded.variant (.bcdConvert x), .variant (.storeRegs x)]) ∧
    (¬Same s t .screen → ∃ x y n, decodeWord (memReadWord s.mem s.pc.toNat) ∈
      [Decoded.variant .clear, .variant (.draw x y n)]) ∧
    (¬Same s t .stack → ∃ nnn, decodeWord (memReadWord s.mem s.pc.toNat) ∈
      [Decoded.variant (.gotoSub nnn), .variant .returnSub]) ∧
    (¬Same s t .index → ∃ x nnn, decodeWord (memReadWord s.mem s.pc.toNat) ∈
      [Decoded.variant (.setI nnn), .variant (.addI x), .variant (.fontChar x)]) ∧
    (¬Same s t .keys → ∃ x, decodeWord (memReadWord s.mem s.pc.toNat) ∈
      [Decoded.variant (.skipIfKey x), .variant (.skipIfNotKey x), .variant (.getKey x)]) ∧
    (¬Same s t .rand → ∃ x kk, decodeWord (memReadWord s.mem s.pc.toNat) = .variant (.random x kk))
end

