-- ==== Sys2Proof/Laws/Memory.lean ====
section
/-! SUPPORT. Memory: what a read gives after a write, and that every memory operation keeps the canonical form. -/

namespace Sys2Proof.Machine

/-- Every address of a cell list is above `a`. -/
abbrev AllAbove (a : Nat) (m : Memory) : Prop := ∀ c ∈ m, a < c.1

theorem memReadByte_above {m : Memory} {a : Nat} (h : AllAbove a m) : memReadByte m a = initialByte a := by
  induction m with
  | nil => rfl
  | cons c m ih =>
    obtain ⟨b, w⟩ := c
    have hb : a < b := h (b, w) (by simp)
    rw [memReadByte, if_neg (by omega), ih fun c hc => h c (by simp [hc])]

theorem memReadByte_insert (m : Memory) (a b : Nat) (v : Byte) :
    memReadByte (memInsert m a v) b = if b = a then v else memReadByte m b := by
  induction m with
  | nil => simp [memInsert, memReadByte]
  | cons c m ih =>
    obtain ⟨d, w⟩ := c
    by_cases h1 : a < d
    · rw [memInsert, if_pos h1, memReadByte]
    · by_cases h2 : a = d
      · subst h2
        rw [memInsert, if_neg h1, if_pos rfl, memReadByte, memReadByte]
        split_ifs <;> rfl
      · rw [memInsert, if_neg h1, if_neg h2, memReadByte, memReadByte, ih]
        split_ifs <;> first | rfl | omega

theorem memReadByte_erase_other (m : Memory) {a b : Nat} (h : b ≠ a) :
    memReadByte (memErase m a) b = memReadByte m b := by
  induction m with
  | nil => rfl
  | cons c m ih =>
    obtain ⟨d, w⟩ := c
    unfold memErase
    split_ifs with h1
    · rw [memReadByte, if_neg (by omega)]
    · simp only [memReadByte, ih]

theorem memReadByte_erase_same {m : Memory} (hs : m.Pairwise fun c d => c.1 < d.1) (a : Nat) :
    memReadByte (memErase m a) a = initialByte a := by
  induction m with
  | nil => rfl
  | cons c m ih =>
    obtain ⟨d, w⟩ := c
    rw [List.pairwise_cons] at hs
    unfold memErase
    split_ifs with h1
    · subst h1
      exact memReadByte_above fun c hc => hs.1 c hc
    · rw [memReadByte, if_neg h1, ih hs.2]

/-- A read after a write to the same address gives the byte written. -/
theorem memReadByte_write_same {m : Memory} (hm : Memory.wf m) {a : Nat} (ha : a < 4096) (v : Byte) :
    memReadByte (memWriteByte m a v) a = v := by
  unfold memWriteByte
  rw [if_pos (by simpa using ha)]
  split_ifs with h
  · rw [memReadByte_erase_same hm.1, h]
  · simp [memReadByte_insert]

/-- A write leaves every other address alone. -/
theorem memReadByte_write_other (m : Memory) {a b : Nat} (h : b ≠ a) (v : Byte) :
    memReadByte (memWriteByte m a v) b = memReadByte m b := by
  unfold memWriteByte
  split_ifs
  · exact memReadByte_erase_other m h
  · simp [memReadByte_insert, h]
  · rfl

theorem mem_memErase {m : Memory} {a : Nat} {c : Host.Cell} (h : c ∈ memErase m a) : c ∈ m := by
  induction m with
  | nil => exact h
  | cons d m ih =>
    obtain ⟨b, w⟩ := d
    unfold memErase at h
    split_ifs at h
    · exact List.mem_cons_of_mem _ h
    · rcases List.mem_cons.1 h with rfl | h
      · simp
      · exact List.mem_cons_of_mem _ (ih h)

theorem mem_memInsert {m : Memory} {a : Nat} {v : Byte} {c : Host.Cell} (h : c ∈ memInsert m a v) :
    c = (a, v) ∨ c ∈ m := by
  induction m with
  | nil => simpa [memInsert] using h
  | cons d m ih =>
    obtain ⟨b, w⟩ := d
    unfold memInsert at h
    split_ifs at h
    · simpa using h
    · rcases List.mem_cons.1 h with rfl | h
      · exact .inl rfl
      · exact .inr (List.mem_cons_of_mem _ h)
    · rcases List.mem_cons.1 h with rfl | h
      · simp
      · exact (ih h).imp id (List.mem_cons_of_mem _)

theorem memErase_wf {m : Memory} (hm : Memory.wf m) (a : Nat) : Memory.wf (memErase m a) := by
  refine ⟨?_, fun c hc => hm.2 c (mem_memErase hc)⟩
  have hs := hm.1
  clear hm
  induction m with
  | nil => exact hs
  | cons d m ih =>
    obtain ⟨b, w⟩ := d
    rw [List.pairwise_cons] at hs
    unfold memErase
    split_ifs
    · exact hs.2
    · exact List.pairwise_cons.2 ⟨fun c hc => hs.1 c (mem_memErase hc), ih hs.2⟩

theorem memInsert_wf {m : Memory} (hm : Memory.wf m) {a : Nat} {v : Byte} (ha : a < 4096) (hv : v ≠ initialByte a) :
    Memory.wf (memInsert m a v) := by
  refine ⟨?_, fun c hc => ?_⟩
  · have hs := hm.1
    clear hm
    induction m with
    | nil => simp [memInsert]
    | cons d m ih =>
      obtain ⟨b, w⟩ := d
      have hs' := hs
      rw [List.pairwise_cons] at hs
      unfold memInsert
      split_ifs with h1 h2
      · refine List.pairwise_cons.2 ⟨fun c hc => ?_, hs'⟩
        rcases List.mem_cons.1 hc with rfl | hc
        · exact h1
        · exact Nat.lt_trans h1 (hs.1 c hc)
      · subst h2
        exact List.pairwise_cons.2 ⟨hs.1, hs.2⟩
      · refine List.pairwise_cons.2 ⟨fun c hc => ?_, ih hs.2⟩
        rcases mem_memInsert hc with rfl | hc
        · show b < a
          omega
        · exact hs.1 c hc
  · rcases mem_memInsert hc with rfl | hc
    · exact ⟨by simpa using ha, hv⟩
    · exact hm.2 c hc

/-- A byte store keeps the canonical form. -/
theorem memWriteByte_wf {m : Memory} (hm : Memory.wf m) (a : Nat) (v : Byte) : Memory.wf (memWriteByte m a v) := by
  unfold memWriteByte
  split_ifs with h1 h2
  · exact memErase_wf hm a
  · exact memInsert_wf hm (by simpa using h1) h2
  · exact hm

/-- A store of several bytes keeps the canonical form. -/
theorem memWrite_wf {m : Memory} (hm : Memory.wf m) (a : Nat) (bs : List Byte) : Memory.wf (memWrite m a bs) := by
  induction bs generalizing m a with
  | nil => exact hm
  | cons b bs ih => exact ih (memWriteByte_wf hm a b) (a + 1)

/-- A store of several bytes leaves every address outside them alone. -/
theorem memReadByte_memWrite_outside (m : Memory) {a b : Nat} (bs : List Byte)
    (h : ¬(a ≤ b ∧ b < a + bs.length)) : memReadByte (memWrite m a bs) b = memReadByte m b := by
  induction bs generalizing m a with
  | nil => rfl
  | cons v bs ih =>
    rw [List.length_cons] at h
    rw [memWrite, ih _ (by omega), memReadByte_write_other _ (by omega)]

/-- A store of several bytes inside the address space puts the k-th byte at the k-th address. -/
theorem memReadByte_memWrite_inside {m : Memory} (hm : Memory.wf m) {a k : Nat} (bs : List Byte)
    (hk : k < bs.length) (ha : a + bs.length ≤ 4096) : memReadByte (memWrite m a bs) (a + k) = bs[k] := by
  induction bs generalizing m a k with
  | nil => simp at hk
  | cons v bs ih =>
    rw [List.length_cons] at hk ha
    rw [memWrite]
    cases k with
    | zero =>
      rw [memReadByte_memWrite_outside _ _ (by omega)]
      exact memReadByte_write_same hm (by omega) v
    | succ k =>
      have := ih (memWriteByte_wf hm a v) (a := a + 1) (k := k) (by omega) (by omega)
      rw [show a + (k + 1) = a + 1 + k by omega, this]
      rfl

@[simp] theorem memRead_length (m : Memory) (a n : Nat) : (memRead m a n).length = n := by simp [memRead]

theorem memRead_getElem (m : Memory) (a n k : Nat) (h : k < (memRead m a n).length) :
    (memRead m a n)[k] = memReadByte m (a + k) := by simp [memRead]

/-- Two memories in canonical form that read alike everywhere are the same data. -/
theorem Memory.ext_of_wf {m m' : Memory} (hm : Memory.wf m) (hm' : Memory.wf m')
    (h : ∀ a, memReadByte m a = memReadByte m' a) : m = m' := by
  induction m generalizing m' with
  | nil =>
    cases m' with
    | nil => rfl
    | cons c m' =>
      obtain ⟨b, w⟩ := c
      have h1 := h b
      rw [memReadByte, memReadByte, if_pos rfl] at h1
      exact absurd h1.symm (hm'.2 (b, w) (by simp)).2
  | cons c m ih =>
    obtain ⟨b, w⟩ := c
    have hs := List.pairwise_cons.1 hm.1
    have hw : w ≠ initialByte b := (hm.2 (b, w) (by simp)).2
    cases m' with
    | nil =>
      have h1 := h b
      rw [memReadByte, memReadByte, if_pos rfl] at h1
      exact absurd h1 hw
    | cons c' m' =>
      obtain ⟨b', w'⟩ := c'
      have hs' := List.pairwise_cons.1 hm'.1
      have hw' : w' ≠ initialByte b' := (hm'.2 (b', w') (by simp)).2
      have hbb : b = b' := by
        rcases Nat.lt_trichotomy b b' with hlt | heq | hgt
        · have h1 := h b
          rw [memReadByte, if_pos rfl, memReadByte_above (m := (b', w') :: m')] at h1
          · exact absurd h1 hw
          · intro c hc
            rcases List.mem_cons.1 hc with rfl | hc
            · exact hlt
            · exact Nat.lt_trans hlt (hs'.1 c hc)
        · exact heq
        · have h1 := h b'
          rw [memReadByte_above (m := (b, w) :: m), memReadByte, if_pos rfl] at h1
          · exact absurd h1.symm hw'
          · intro c hc
            rcases List.mem_cons.1 hc with rfl | hc
            · exact hgt
            · exact Nat.lt_trans hgt (hs.1 c hc)
      subst hbb
      have hww : w = w' := by simpa [memReadByte] using h b
      subst hww
      have htail : m = m' := by
        refine ih ⟨hs.2, fun c hc => hm.2 c (by simp [hc])⟩ ⟨hs'.2, fun c hc => hm'.2 c (by simp [hc])⟩ fun a => ?_
        by_cases ha : a = b
        · subst ha
          rw [memReadByte_above hs.1, memReadByte_above hs'.1]
        · simpa [memReadByte, ha] using h a
      rw [htail]

end Sys2Proof.Machine
end

