-- ==== Sys2Proof/Laws/Boot.lean ====
section
/-! SUPPORT. The boot: it writes memory only, and keeps its canonical form. -/

namespace Sys2Proof.Machine

/-! ### `resetWith` -/

@[simp] theorem State.resetWith_v (font : Font) : (State.resetWith font).v = State.reset.v := rfl
@[simp] theorem State.resetWith_regI (font : Font) : (State.resetWith font).regI = State.reset.regI := rfl
@[simp] theorem State.resetWith_pc (font : Font) : (State.resetWith font).pc = State.reset.pc := rfl
@[simp] theorem State.resetWith_stack (font : Font) : (State.resetWith font).stack = State.reset.stack := rfl
@[simp] theorem State.resetWith_sp (font : Font) : (State.resetWith font).sp = State.reset.sp := rfl
@[simp] theorem State.resetWith_dt (font : Font) : (State.resetWith font).dt = State.reset.dt := rfl
@[simp] theorem State.resetWith_st (font : Font) : (State.resetWith font).st = State.reset.st := rfl
@[simp] theorem State.resetWith_fb (font : Font) : (State.resetWith font).fb = State.reset.fb := rfl
@[simp] theorem State.resetWith_status (font : Font) : (State.resetWith font).status = State.reset.status := rfl
@[simp] theorem State.resetWith_signal (font : Font) : (State.resetWith font).signal = State.reset.signal := rfl
@[simp] theorem State.resetWith_keyQueries (font : Font) : (State.resetWith font).keyQueries = State.reset.keyQueries := rfl
@[simp] theorem State.resetWith_randDraws (font : Font) : (State.resetWith font).randDraws = State.reset.randDraws := rfl
@[simp] theorem State.resetWith_tickChecks (font : Font) : (State.resetWith font).tickChecks = State.reset.tickChecks := rfl

theorem State.resetWith_wf (font : Font) : Memory.wf (State.resetWith font).mem := memWrite_wf (by decide) _ _

/-! ### `loadRom` -/

@[simp] theorem loadRom_v (rom : List Byte) (s : State) : (loadRom rom s).v = s.v := rfl
@[simp] theorem loadRom_regI (rom : List Byte) (s : State) : (loadRom rom s).regI = s.regI := rfl
@[simp] theorem loadRom_pc (rom : List Byte) (s : State) : (loadRom rom s).pc = s.pc := rfl
@[simp] theorem loadRom_stack (rom : List Byte) (s : State) : (loadRom rom s).stack = s.stack := rfl
@[simp] theorem loadRom_sp (rom : List Byte) (s : State) : (loadRom rom s).sp = s.sp := rfl
@[simp] theorem loadRom_dt (rom : List Byte) (s : State) : (loadRom rom s).dt = s.dt := rfl
@[simp] theorem loadRom_st (rom : List Byte) (s : State) : (loadRom rom s).st = s.st := rfl
@[simp] theorem loadRom_fb (rom : List Byte) (s : State) : (loadRom rom s).fb = s.fb := rfl
@[simp] theorem loadRom_status (rom : List Byte) (s : State) : (loadRom rom s).status = s.status := rfl
@[simp] theorem loadRom_signal (rom : List Byte) (s : State) : (loadRom rom s).signal = s.signal := rfl
@[simp] theorem loadRom_keyQueries (rom : List Byte) (s : State) : (loadRom rom s).keyQueries = s.keyQueries := rfl
@[simp] theorem loadRom_randDraws (rom : List Byte) (s : State) : (loadRom rom s).randDraws = s.randDraws := rfl
@[simp] theorem loadRom_tickChecks (rom : List Byte) (s : State) : (loadRom rom s).tickChecks = s.tickChecks := rfl

theorem loadRom_wf (rom : List Byte) {s : State} (h : Memory.wf s.mem) : Memory.wf (loadRom rom s).mem := memWrite_wf h _ _

/-! ### `boot` -/

theorem boot_of_fits (font : Font) {rom : List Byte} (h : rom.length ≤ 3584) :
    boot font rom = .started (loadRom rom (State.resetWith font)) := if_pos (decide_eq_true h)

theorem boot_of_long (font : Font) {rom : List Byte} (h : 3584 < rom.length) :
    boot font rom = .rejected .romTooLarge rom.length := if_neg fun hr => absurd (of_decide_eq_true hr) (by simp; omega)

end Sys2Proof.Machine
end

