-- ==== Sys2Proof/Laws/Decode.lean ====
section
/-! SUPPORT. The fields of a word as numbers, the fields of an encoded word, and how a mask and match select a word. -/

namespace Sys2Proof

theorem fieldOp_toNat (w : Word) : (fieldOp w).toNat = w.toNat / 4096 := by
  have := w.isLt
  simp only [fieldOp, BitVec.extractLsb'_toNat, Nat.shiftRight_eq_div_pow]
  omega

theorem fieldX_toNat (w : Word) : (fieldX w).toNat = w.toNat / 256 % 16 := by
  simp only [fieldX, BitVec.extractLsb'_toNat, Nat.shiftRight_eq_div_pow]

theorem fieldY_toNat (w : Word) : (fieldY w).toNat = w.toNat / 16 % 16 := by
  simp only [fieldY, BitVec.extractLsb'_toNat, Nat.shiftRight_eq_div_pow]

theorem fieldN_toNat (w : Word) : (fieldN w).toNat = w.toNat % 16 := by
  simp only [fieldN, BitVec.extractLsb'_toNat, Nat.shiftRight_eq_div_pow]
  omega

theorem fieldKK_toNat (w : Word) : (fieldKK w).toNat = w.toNat % 256 := by
  simp only [fieldKK, BitVec.extractLsb'_toNat, Nat.shiftRight_eq_div_pow]
  omega

theorem fieldNNN_toNat (w : Word) : (fieldNNN w).toNat = w.toNat % 4096 := by
  simp only [fieldNNN, BitVec.extractLsb'_toNat, Nat.shiftRight_eq_div_pow]
  omega

/-- Two bit vectors joined, as numbers. -/
theorem append_toNat {m n : Nat} (a : BitVec m) (b : BitVec n) : (a ++ b).toNat = a.toNat * 2 ^ n + b.toNat := by
  rw [BitVec.toNat_append, ← Nat.shiftLeft_add_eq_or_of_lt b.isLt, Nat.shiftLeft_eq]

/-- The number of a word of format `A` (30_encoding.md R72). -/
theorem toNat_formatA (o : Nibble) (nnn : Addr) : (o ++ nnn : Word).toNat = o.toNat * 4096 + nnn.toNat := by
  rw [append_toNat]; rfl

/-- The number of a word of format `XK` or `XS` (30_encoding.md R72). -/
theorem toNat_formatXK (o x : Nibble) (kk : Byte) :
    (o ++ x ++ kk : Word).toNat = o.toNat * 4096 + x.toNat * 256 + kk.toNat := by
  rw [append_toNat, append_toNat]; omega

/-- The number of a word of format `XY`, `XYS` or `XYN` (30_encoding.md R72). -/
theorem toNat_formatXY (o x y n : Nibble) :
    (o ++ x ++ y ++ n : Word).toNat = o.toNat * 4096 + x.toNat * 256 + y.toNat * 16 + n.toNat := by
  rw [append_toNat, append_toNat, append_toNat]; omega

section Fields

variable (o x y n : Nibble) (kk : Byte) (nnn : Addr)

@[simp] theorem fieldOp_formatA : fieldOp (o ++ nnn : Word) = o := by
  apply BitVec.eq_of_toNat_eq; rw [fieldOp_toNat, toNat_formatA]; omega

@[simp] theorem fieldNNN_formatA : fieldNNN (o ++ nnn : Word) = nnn := by
  apply BitVec.eq_of_toNat_eq; rw [fieldNNN_toNat, toNat_formatA]; omega

@[simp] theorem fieldOp_formatXK : fieldOp (o ++ x ++ kk : Word) = o := by
  apply BitVec.eq_of_toNat_eq; rw [fieldOp_toNat, toNat_formatXK]; omega

@[simp] theorem fieldX_formatXK : fieldX (o ++ x ++ kk : Word) = x := by
  apply BitVec.eq_of_toNat_eq; rw [fieldX_toNat, toNat_formatXK]; omega

@[simp] theorem fieldKK_formatXK : fieldKK (o ++ x ++ kk : Word) = kk := by
  apply BitVec.eq_of_toNat_eq; rw [fieldKK_toNat, toNat_formatXK]; omega

@[simp] theorem fieldOp_formatXY : fieldOp (o ++ x ++ y ++ n : Word) = o := by
  apply BitVec.eq_of_toNat_eq; rw [fieldOp_toNat, toNat_formatXY]; omega

@[simp] theorem fieldX_formatXY : fieldX (o ++ x ++ y ++ n : Word) = x := by
  apply BitVec.eq_of_toNat_eq; rw [fieldX_toNat, toNat_formatXY]; omega

@[simp] theorem fieldY_formatXY : fieldY (o ++ x ++ y ++ n : Word) = y := by
  apply BitVec.eq_of_toNat_eq; rw [fieldY_toNat, toNat_formatXY]; omega

@[simp] theorem fieldN_formatXY : fieldN (o ++ x ++ y ++ n : Word) = n := by
  apply BitVec.eq_of_toNat_eq; rw [fieldN_toNat, toNat_formatXY]; omega

end Fields

/-- A word is its `op` and `nnn` joined. -/
theorem word_formatA (w : Word) : (fieldOp w ++ fieldNNN w : Word) = w := by
  apply BitVec.eq_of_toNat_eq; rw [toNat_formatA, fieldOp_toNat, fieldNNN_toNat]; omega

/-- A word is its `op`, `x` and `kk` joined. -/
theorem word_formatXK (w : Word) : (fieldOp w ++ fieldX w ++ fieldKK w : Word) = w := by
  apply BitVec.eq_of_toNat_eq; rw [toNat_formatXK, fieldOp_toNat, fieldX_toNat, fieldKK_toNat]; omega

/-- A word is its `op`, `x`, `y` and `n` joined. -/
theorem word_formatXY (w : Word) : (fieldOp w ++ fieldX w ++ fieldY w ++ fieldN w : Word) = w := by
  apply BitVec.eq_of_toNat_eq
  rw [toNat_formatXY, fieldOp_toNat, fieldX_toNat, fieldY_toNat, fieldN_toNat]; omega

theorem and_nibble_ones (a : Nibble) : a &&& 0xF#4 = a := BitVec.and_allOnes

theorem and_byte_ones (a : Byte) : a &&& 0xFF#8 = a := BitVec.and_allOnes

/-- The mask 0xF000 keeps `op` alone. -/
theorem and_maskA (w : Word) : w &&& 0xF000#16 = (fieldOp w ++ 0#12 : Word) := by
  have h : (w &&& 0xF000#16) = (((fieldOp w ++ fieldNNN w : Word)) &&& ((0xF#4 ++ 0#12 : Word))) := by
    rw [word_formatA]; rfl
  rw [h, BitVec.and_append]; simp [and_nibble_ones]

/-- The mask 0xF0FF keeps `op` and `kk`. -/
theorem and_maskXS (w : Word) : w &&& 0xF0FF#16 = (fieldOp w ++ 0#4 ++ fieldKK w : Word) := by
  have h : (w &&& 0xF0FF#16) = ((fieldOp w ++ fieldX w ++ fieldKK w : Word) &&& (0xF#4 ++ 0#4 ++ 0xFF#8 : Word)) := by
    rw [word_formatXK]; rfl
  rw [h, BitVec.and_append, BitVec.and_append]; simp [and_nibble_ones, and_byte_ones]

/-- The mask 0xF00F keeps `op` and `n`. -/
theorem and_maskXYS (w : Word) : w &&& 0xF00F#16 = (fieldOp w ++ 0#4 ++ 0#4 ++ fieldN w : Word) := by
  have h : (w &&& 0xF00F#16) =
      ((fieldOp w ++ fieldX w ++ fieldY w ++ fieldN w : Word) &&& (0xF#4 ++ 0#4 ++ 0#4 ++ 0xF#4 : Word)) := by
    rw [word_formatXY]; rfl
  rw [h, BitVec.and_append, BitVec.and_append, BitVec.and_append]; simp [and_nibble_ones]

/-- A word lies on a row of mask 0xF000 exactly when its `op` is the row's. -/
theorem and_maskA_eq (w p : Word) (hp : fieldNNN p = 0#12) : w &&& 0xF000#16 = p ↔ fieldOp w = fieldOp p := by
  rw [and_maskA]
  constructor
  · rintro rfl; simp
  · intro h; rw [h, ← hp, word_formatA]

/-- A word lies on a row of mask 0xF0FF exactly when its `op` and `kk` are the row's. -/
theorem and_maskXS_eq (w p : Word) (hp : fieldX p = 0#4) :
    w &&& 0xF0FF#16 = p ↔ fieldOp w = fieldOp p ∧ fieldKK w = fieldKK p := by
  rw [and_maskXS]
  constructor
  · rintro rfl; simp
  · rintro ⟨h, h'⟩; rw [h, h', ← hp, word_formatXK]

/-- A word lies on a row of mask 0xF00F exactly when its `op` and `n` are the row's. -/
theorem and_maskXYS_eq (w p : Word) (hp : fieldX p = 0#4) (hp' : fieldY p = 0#4) :
    w &&& 0xF00F#16 = p ↔ fieldOp w = fieldOp p ∧ fieldN w = fieldN p := by
  rw [and_maskXYS]
  constructor
  · rintro rfl; simp
  · rintro ⟨h, h'⟩
    rw [h, h']
    have := word_formatXY p
    rw [hp, hp'] at this
    exact this

@[simp] theorem bytesOfWord_length (w : Word) : (bytesOfWord w).length = 2 := rfl

/-- The two bytes of a word give the word back. -/
theorem wordOfBytes_bytesOfWord (w : Word) : wordOfBytes (w.extractLsb' 8 8) (w.extractLsb' 0 8) = w := by
  apply BitVec.eq_of_toNat_eq
  have := w.isLt
  simp only [wordOfBytes, append_toNat, BitVec.extractLsb'_toNat, Nat.shiftRight_eq_div_pow]
  omega

end Sys2Proof
end

