-- ==== Sys2Proof/Laws/State.lean ====
section
/-! SUPPORT. One lemma per field per update of the state, true by rfl, so that no later proof unfolds a record update;
then what reading a register gives after each update that writes registers. -/

namespace Sys2Proof.Machine

/-! ### `setReg` -/

@[simp] theorem State.setReg_mem (s : State) (x : RegIdx) (b : Byte) : (s.setReg x b).mem = s.mem := rfl
@[simp] theorem State.setReg_v (s : State) (x : RegIdx) (b : Byte) : (s.setReg x b).v = s.v.set x.toNat b x.isLt := rfl
@[simp] theorem State.setReg_regI (s : State) (x : RegIdx) (b : Byte) : (s.setReg x b).regI = s.regI := rfl
@[simp] theorem State.setReg_pc (s : State) (x : RegIdx) (b : Byte) : (s.setReg x b).pc = s.pc := rfl
@[simp] theorem State.setReg_stack (s : State) (x : RegIdx) (b : Byte) : (s.setReg x b).stack = s.stack := rfl
@[simp] theorem State.setReg_sp (s : State) (x : RegIdx) (b : Byte) : (s.setReg x b).sp = s.sp := rfl
@[simp] theorem State.setReg_dt (s : State) (x : RegIdx) (b : Byte) : (s.setReg x b).dt = s.dt := rfl
@[simp] theorem State.setReg_st (s : State) (x : RegIdx) (b : Byte) : (s.setReg x b).st = s.st := rfl
@[simp] theorem State.setReg_fb (s : State) (x : RegIdx) (b : Byte) : (s.setReg x b).fb = s.fb := rfl
@[simp] theorem State.setReg_status (s : State) (x : RegIdx) (b : Byte) : (s.setReg x b).status = s.status := rfl
@[simp] theorem State.setReg_signal (s : State) (x : RegIdx) (b : Byte) : (s.setReg x b).signal = s.signal := rfl
@[simp] theorem State.setReg_keyQueries (s : State) (x : RegIdx) (b : Byte) : (s.setReg x b).keyQueries = s.keyQueries := rfl
@[simp] theorem State.setReg_randDraws (s : State) (x : RegIdx) (b : Byte) : (s.setReg x b).randDraws = s.randDraws := rfl
@[simp] theorem State.setReg_tickChecks (s : State) (x : RegIdx) (b : Byte) : (s.setReg x b).tickChecks = s.tickChecks := rfl

/-! ### `setI` -/

@[simp] theorem State.setI_mem (s : State) (w : Word) : (s.setI w).mem = s.mem := rfl
@[simp] theorem State.setI_v (s : State) (w : Word) : (s.setI w).v = s.v := rfl
@[simp] theorem State.setI_regI (s : State) (w : Word) : (s.setI w).regI = w := rfl
@[simp] theorem State.setI_pc (s : State) (w : Word) : (s.setI w).pc = s.pc := rfl
@[simp] theorem State.setI_stack (s : State) (w : Word) : (s.setI w).stack = s.stack := rfl
@[simp] theorem State.setI_sp (s : State) (w : Word) : (s.setI w).sp = s.sp := rfl
@[simp] theorem State.setI_dt (s : State) (w : Word) : (s.setI w).dt = s.dt := rfl
@[simp] theorem State.setI_st (s : State) (w : Word) : (s.setI w).st = s.st := rfl
@[simp] theorem State.setI_fb (s : State) (w : Word) : (s.setI w).fb = s.fb := rfl
@[simp] theorem State.setI_status (s : State) (w : Word) : (s.setI w).status = s.status := rfl
@[simp] theorem State.setI_signal (s : State) (w : Word) : (s.setI w).signal = s.signal := rfl
@[simp] theorem State.setI_keyQueries (s : State) (w : Word) : (s.setI w).keyQueries = s.keyQueries := rfl
@[simp] theorem State.setI_randDraws (s : State) (w : Word) : (s.setI w).randDraws = s.randDraws := rfl
@[simp] theorem State.setI_tickChecks (s : State) (w : Word) : (s.setI w).tickChecks = s.tickChecks := rfl
@[simp] theorem State.setI_reg (s : State) (w : Word) (r : RegIdx) : (s.setI w).reg r = s.reg r := rfl

/-! ### `setPc` -/

@[simp] theorem State.setPc_mem (s : State) (w : Word) : (s.setPc w).mem = s.mem := rfl
@[simp] theorem State.setPc_v (s : State) (w : Word) : (s.setPc w).v = s.v := rfl
@[simp] theorem State.setPc_regI (s : State) (w : Word) : (s.setPc w).regI = s.regI := rfl
@[simp] theorem State.setPc_pc (s : State) (w : Word) : (s.setPc w).pc = w := rfl
@[simp] theorem State.setPc_stack (s : State) (w : Word) : (s.setPc w).stack = s.stack := rfl
@[simp] theorem State.setPc_sp (s : State) (w : Word) : (s.setPc w).sp = s.sp := rfl
@[simp] theorem State.setPc_dt (s : State) (w : Word) : (s.setPc w).dt = s.dt := rfl
@[simp] theorem State.setPc_st (s : State) (w : Word) : (s.setPc w).st = s.st := rfl
@[simp] theorem State.setPc_fb (s : State) (w : Word) : (s.setPc w).fb = s.fb := rfl
@[simp] theorem State.setPc_status (s : State) (w : Word) : (s.setPc w).status = s.status := rfl
@[simp] theorem State.setPc_signal (s : State) (w : Word) : (s.setPc w).signal = s.signal := rfl
@[simp] theorem State.setPc_keyQueries (s : State) (w : Word) : (s.setPc w).keyQueries = s.keyQueries := rfl
@[simp] theorem State.setPc_randDraws (s : State) (w : Word) : (s.setPc w).randDraws = s.randDraws := rfl
@[simp] theorem State.setPc_tickChecks (s : State) (w : Word) : (s.setPc w).tickChecks = s.tickChecks := rfl
@[simp] theorem State.setPc_reg (s : State) (w : Word) (r : RegIdx) : (s.setPc w).reg r = s.reg r := rfl

/-! ### `setDelay` -/

@[simp] theorem State.setDelay_mem (s : State) (b : Byte) : (s.setDelay b).mem = s.mem := rfl
@[simp] theorem State.setDelay_v (s : State) (b : Byte) : (s.setDelay b).v = s.v := rfl
@[simp] theorem State.setDelay_regI (s : State) (b : Byte) : (s.setDelay b).regI = s.regI := rfl
@[simp] theorem State.setDelay_pc (s : State) (b : Byte) : (s.setDelay b).pc = s.pc := rfl
@[simp] theorem State.setDelay_stack (s : State) (b : Byte) : (s.setDelay b).stack = s.stack := rfl
@[simp] theorem State.setDelay_sp (s : State) (b : Byte) : (s.setDelay b).sp = s.sp := rfl
@[simp] theorem State.setDelay_dt (s : State) (b : Byte) : (s.setDelay b).dt = b := rfl
@[simp] theorem State.setDelay_st (s : State) (b : Byte) : (s.setDelay b).st = s.st := rfl
@[simp] theorem State.setDelay_fb (s : State) (b : Byte) : (s.setDelay b).fb = s.fb := rfl
@[simp] theorem State.setDelay_status (s : State) (b : Byte) : (s.setDelay b).status = s.status := rfl
@[simp] theorem State.setDelay_signal (s : State) (b : Byte) : (s.setDelay b).signal = s.signal := rfl
@[simp] theorem State.setDelay_keyQueries (s : State) (b : Byte) : (s.setDelay b).keyQueries = s.keyQueries := rfl
@[simp] theorem State.setDelay_randDraws (s : State) (b : Byte) : (s.setDelay b).randDraws = s.randDraws := rfl
@[simp] theorem State.setDelay_tickChecks (s : State) (b : Byte) : (s.setDelay b).tickChecks = s.tickChecks := rfl
@[simp] theorem State.setDelay_reg (s : State) (b : Byte) (r : RegIdx) : (s.setDelay b).reg r = s.reg r := rfl

/-! ### `setSound` -/

@[simp] theorem State.setSound_mem (s : State) (b : Byte) : (s.setSound b).mem = s.mem := rfl
@[simp] theorem State.setSound_v (s : State) (b : Byte) : (s.setSound b).v = s.v := rfl
@[simp] theorem State.setSound_regI (s : State) (b : Byte) : (s.setSound b).regI = s.regI := rfl
@[simp] theorem State.setSound_pc (s : State) (b : Byte) : (s.setSound b).pc = s.pc := rfl
@[simp] theorem State.setSound_stack (s : State) (b : Byte) : (s.setSound b).stack = s.stack := rfl
@[simp] theorem State.setSound_sp (s : State) (b : Byte) : (s.setSound b).sp = s.sp := rfl
@[simp] theorem State.setSound_dt (s : State) (b : Byte) : (s.setSound b).dt = s.dt := rfl
@[simp] theorem State.setSound_st (s : State) (b : Byte) : (s.setSound b).st = b := rfl
@[simp] theorem State.setSound_fb (s : State) (b : Byte) : (s.setSound b).fb = s.fb := rfl
@[simp] theorem State.setSound_status (s : State) (b : Byte) : (s.setSound b).status = s.status := rfl
@[simp] theorem State.setSound_signal (s : State) (b : Byte) : (s.setSound b).signal = s.signal := rfl
@[simp] theorem State.setSound_keyQueries (s : State) (b : Byte) : (s.setSound b).keyQueries = s.keyQueries := rfl
@[simp] theorem State.setSound_randDraws (s : State) (b : Byte) : (s.setSound b).randDraws = s.randDraws := rfl
@[simp] theorem State.setSound_tickChecks (s : State) (b : Byte) : (s.setSound b).tickChecks = s.tickChecks := rfl
@[simp] theorem State.setSound_reg (s : State) (b : Byte) (r : RegIdx) : (s.setSound b).reg r = s.reg r := rfl

/-! ### `setMem` -/

@[simp] theorem State.setMem_mem (s : State) (m : Memory) : (s.setMem m).mem = m := rfl
@[simp] theorem State.setMem_v (s : State) (m : Memory) : (s.setMem m).v = s.v := rfl
@[simp] theorem State.setMem_regI (s : State) (m : Memory) : (s.setMem m).regI = s.regI := rfl
@[simp] theorem State.setMem_pc (s : State) (m : Memory) : (s.setMem m).pc = s.pc := rfl
@[simp] theorem State.setMem_stack (s : State) (m : Memory) : (s.setMem m).stack = s.stack := rfl
@[simp] theorem State.setMem_sp (s : State) (m : Memory) : (s.setMem m).sp = s.sp := rfl
@[simp] theorem State.setMem_dt (s : State) (m : Memory) : (s.setMem m).dt = s.dt := rfl
@[simp] theorem State.setMem_st (s : State) (m : Memory) : (s.setMem m).st = s.st := rfl
@[simp] theorem State.setMem_fb (s : State) (m : Memory) : (s.setMem m).fb = s.fb := rfl
@[simp] theorem State.setMem_status (s : State) (m : Memory) : (s.setMem m).status = s.status := rfl
@[simp] theorem State.setMem_signal (s : State) (m : Memory) : (s.setMem m).signal = s.signal := rfl
@[simp] theorem State.setMem_keyQueries (s : State) (m : Memory) : (s.setMem m).keyQueries = s.keyQueries := rfl
@[simp] theorem State.setMem_randDraws (s : State) (m : Memory) : (s.setMem m).randDraws = s.randDraws := rfl
@[simp] theorem State.setMem_tickChecks (s : State) (m : Memory) : (s.setMem m).tickChecks = s.tickChecks := rfl
@[simp] theorem State.setMem_reg (s : State) (m : Memory) (r : RegIdx) : (s.setMem m).reg r = s.reg r := rfl

/-! ### `setFb` -/

@[simp] theorem State.setFb_mem (s : State) (f : Framebuffer) : (s.setFb f).mem = s.mem := rfl
@[simp] theorem State.setFb_v (s : State) (f : Framebuffer) : (s.setFb f).v = s.v := rfl
@[simp] theorem State.setFb_regI (s : State) (f : Framebuffer) : (s.setFb f).regI = s.regI := rfl
@[simp] theorem State.setFb_pc (s : State) (f : Framebuffer) : (s.setFb f).pc = s.pc := rfl
@[simp] theorem State.setFb_stack (s : State) (f : Framebuffer) : (s.setFb f).stack = s.stack := rfl
@[simp] theorem State.setFb_sp (s : State) (f : Framebuffer) : (s.setFb f).sp = s.sp := rfl
@[simp] theorem State.setFb_dt (s : State) (f : Framebuffer) : (s.setFb f).dt = s.dt := rfl
@[simp] theorem State.setFb_st (s : State) (f : Framebuffer) : (s.setFb f).st = s.st := rfl
@[simp] theorem State.setFb_fb (s : State) (f : Framebuffer) : (s.setFb f).fb = f := rfl
@[simp] theorem State.setFb_status (s : State) (f : Framebuffer) : (s.setFb f).status = s.status := rfl
@[simp] theorem State.setFb_signal (s : State) (f : Framebuffer) : (s.setFb f).signal = s.signal := rfl
@[simp] theorem State.setFb_keyQueries (s : State) (f : Framebuffer) : (s.setFb f).keyQueries = s.keyQueries := rfl
@[simp] theorem State.setFb_randDraws (s : State) (f : Framebuffer) : (s.setFb f).randDraws = s.randDraws := rfl
@[simp] theorem State.setFb_tickChecks (s : State) (f : Framebuffer) : (s.setFb f).tickChecks = s.tickChecks := rfl
@[simp] theorem State.setFb_reg (s : State) (f : Framebuffer) (r : RegIdx) : (s.setFb f).reg r = s.reg r := rfl

/-! ### `push` -/

@[simp] theorem State.push_mem (s : State) (w : Word) (h : s.sp.val < 16) : (s.push w h).mem = s.mem := rfl
@[simp] theorem State.push_v (s : State) (w : Word) (h : s.sp.val < 16) : (s.push w h).v = s.v := rfl
@[simp] theorem State.push_regI (s : State) (w : Word) (h : s.sp.val < 16) : (s.push w h).regI = s.regI := rfl
@[simp] theorem State.push_pc (s : State) (w : Word) (h : s.sp.val < 16) : (s.push w h).pc = s.pc := rfl
@[simp] theorem State.push_stack (s : State) (w : Word) (h : s.sp.val < 16) : (s.push w h).stack = s.stack.set s.sp.val w h := rfl
@[simp] theorem State.push_sp (s : State) (w : Word) (h : s.sp.val < 16) : (s.push w h).sp = ⟨s.sp.val + 1, by omega⟩ := rfl
@[simp] theorem State.push_dt (s : State) (w : Word) (h : s.sp.val < 16) : (s.push w h).dt = s.dt := rfl
@[simp] theorem State.push_st (s : State) (w : Word) (h : s.sp.val < 16) : (s.push w h).st = s.st := rfl
@[simp] theorem State.push_fb (s : State) (w : Word) (h : s.sp.val < 16) : (s.push w h).fb = s.fb := rfl
@[simp] theorem State.push_status (s : State) (w : Word) (h : s.sp.val < 16) : (s.push w h).status = s.status := rfl
@[simp] theorem State.push_signal (s : State) (w : Word) (h : s.sp.val < 16) : (s.push w h).signal = s.signal := rfl
@[simp] theorem State.push_keyQueries (s : State) (w : Word) (h : s.sp.val < 16) : (s.push w h).keyQueries = s.keyQueries := rfl
@[simp] theorem State.push_randDraws (s : State) (w : Word) (h : s.sp.val < 16) : (s.push w h).randDraws = s.randDraws := rfl
@[simp] theorem State.push_tickChecks (s : State) (w : Word) (h : s.sp.val < 16) : (s.push w h).tickChecks = s.tickChecks := rfl
@[simp] theorem State.push_reg (s : State) (w : Word) (h : s.sp.val < 16) (r : RegIdx) : (s.push w h).reg r = s.reg r := rfl

/-! ### `pop` -/

@[simp] theorem State.pop_mem (s : State) : (s.pop).mem = s.mem := rfl
@[simp] theorem State.pop_v (s : State) : (s.pop).v = s.v := rfl
@[simp] theorem State.pop_regI (s : State) : (s.pop).regI = s.regI := rfl
@[simp] theorem State.pop_pc (s : State) : (s.pop).pc = s.pc := rfl
@[simp] theorem State.pop_stack (s : State) : (s.pop).stack = s.stack := rfl
@[simp] theorem State.pop_sp (s : State) : (s.pop).sp = ⟨s.sp.val - 1, by omega⟩ := rfl
@[simp] theorem State.pop_dt (s : State) : (s.pop).dt = s.dt := rfl
@[simp] theorem State.pop_st (s : State) : (s.pop).st = s.st := rfl
@[simp] theorem State.pop_fb (s : State) : (s.pop).fb = s.fb := rfl
@[simp] theorem State.pop_status (s : State) : (s.pop).status = s.status := rfl
@[simp] theorem State.pop_signal (s : State) : (s.pop).signal = s.signal := rfl
@[simp] theorem State.pop_keyQueries (s : State) : (s.pop).keyQueries = s.keyQueries := rfl
@[simp] theorem State.pop_randDraws (s : State) : (s.pop).randDraws = s.randDraws := rfl
@[simp] theorem State.pop_tickChecks (s : State) : (s.pop).tickChecks = s.tickChecks := rfl
@[simp] theorem State.pop_reg (s : State)  (r : RegIdx) : (s.pop).reg r = s.reg r := rfl

/-! ### `tookKey` -/

@[simp] theorem State.tookKey_mem (s : State) : (s.tookKey).mem = s.mem := rfl
@[simp] theorem State.tookKey_v (s : State) : (s.tookKey).v = s.v := rfl
@[simp] theorem State.tookKey_regI (s : State) : (s.tookKey).regI = s.regI := rfl
@[simp] theorem State.tookKey_pc (s : State) : (s.tookKey).pc = s.pc := rfl
@[simp] theorem State.tookKey_stack (s : State) : (s.tookKey).stack = s.stack := rfl
@[simp] theorem State.tookKey_sp (s : State) : (s.tookKey).sp = s.sp := rfl
@[simp] theorem State.tookKey_dt (s : State) : (s.tookKey).dt = s.dt := rfl
@[simp] theorem State.tookKey_st (s : State) : (s.tookKey).st = s.st := rfl
@[simp] theorem State.tookKey_fb (s : State) : (s.tookKey).fb = s.fb := rfl
@[simp] theorem State.tookKey_status (s : State) : (s.tookKey).status = s.status := rfl
@[simp] theorem State.tookKey_signal (s : State) : (s.tookKey).signal = s.signal := rfl
@[simp] theorem State.tookKey_keyQueries (s : State) : (s.tookKey).keyQueries = s.keyQueries + 1 := rfl
@[simp] theorem State.tookKey_randDraws (s : State) : (s.tookKey).randDraws = s.randDraws := rfl
@[simp] theorem State.tookKey_tickChecks (s : State) : (s.tookKey).tickChecks = s.tickChecks := rfl
@[simp] theorem State.tookKey_reg (s : State)  (r : RegIdx) : (s.tookKey).reg r = s.reg r := rfl

/-! ### `tookRand` -/

@[simp] theorem State.tookRand_mem (s : State) : (s.tookRand).mem = s.mem := rfl
@[simp] theorem State.tookRand_v (s : State) : (s.tookRand).v = s.v := rfl
@[simp] theorem State.tookRand_regI (s : State) : (s.tookRand).regI = s.regI := rfl
@[simp] theorem State.tookRand_pc (s : State) : (s.tookRand).pc = s.pc := rfl
@[simp] theorem State.tookRand_stack (s : State) : (s.tookRand).stack = s.stack := rfl
@[simp] theorem State.tookRand_sp (s : State) : (s.tookRand).sp = s.sp := rfl
@[simp] theorem State.tookRand_dt (s : State) : (s.tookRand).dt = s.dt := rfl
@[simp] theorem State.tookRand_st (s : State) : (s.tookRand).st = s.st := rfl
@[simp] theorem State.tookRand_fb (s : State) : (s.tookRand).fb = s.fb := rfl
@[simp] theorem State.tookRand_status (s : State) : (s.tookRand).status = s.status := rfl
@[simp] theorem State.tookRand_signal (s : State) : (s.tookRand).signal = s.signal := rfl
@[simp] theorem State.tookRand_keyQueries (s : State) : (s.tookRand).keyQueries = s.keyQueries := rfl
@[simp] theorem State.tookRand_randDraws (s : State) : (s.tookRand).randDraws = s.randDraws + 1 := rfl
@[simp] theorem State.tookRand_tickChecks (s : State) : (s.tookRand).tickChecks = s.tickChecks := rfl
@[simp] theorem State.tookRand_reg (s : State)  (r : RegIdx) : (s.tookRand).reg r = s.reg r := rfl

/-! ### `tookTick` -/

@[simp] theorem State.tookTick_mem (s : State) : (s.tookTick).mem = s.mem := rfl
@[simp] theorem State.tookTick_v (s : State) : (s.tookTick).v = s.v := rfl
@[simp] theorem State.tookTick_regI (s : State) : (s.tookTick).regI = s.regI := rfl
@[simp] theorem State.tookTick_pc (s : State) : (s.tookTick).pc = s.pc := rfl
@[simp] theorem State.tookTick_stack (s : State) : (s.tookTick).stack = s.stack := rfl
@[simp] theorem State.tookTick_sp (s : State) : (s.tookTick).sp = s.sp := rfl
@[simp] theorem State.tookTick_dt (s : State) : (s.tookTick).dt = s.dt := rfl
@[simp] theorem State.tookTick_st (s : State) : (s.tookTick).st = s.st := rfl
@[simp] theorem State.tookTick_fb (s : State) : (s.tookTick).fb = s.fb := rfl
@[simp] theorem State.tookTick_status (s : State) : (s.tookTick).status = s.status := rfl
@[simp] theorem State.tookTick_signal (s : State) : (s.tookTick).signal = s.signal := rfl
@[simp] theorem State.tookTick_keyQueries (s : State) : (s.tookTick).keyQueries = s.keyQueries := rfl
@[simp] theorem State.tookTick_randDraws (s : State) : (s.tookTick).randDraws = s.randDraws := rfl
@[simp] theorem State.tookTick_tickChecks (s : State) : (s.tookTick).tickChecks = s.tickChecks + 1 := rfl
@[simp] theorem State.tookTick_reg (s : State)  (r : RegIdx) : (s.tookTick).reg r = s.reg r := rfl

/-! ### `emit` -/

@[simp] theorem State.emit_mem (s : State) (g : Signal) : (s.emit g).mem = s.mem := rfl
@[simp] theorem State.emit_v (s : State) (g : Signal) : (s.emit g).v = s.v := rfl
@[simp] theorem State.emit_regI (s : State) (g : Signal) : (s.emit g).regI = s.regI := rfl
@[simp] theorem State.emit_pc (s : State) (g : Signal) : (s.emit g).pc = s.pc := rfl
@[simp] theorem State.emit_stack (s : State) (g : Signal) : (s.emit g).stack = s.stack := rfl
@[simp] theorem State.emit_sp (s : State) (g : Signal) : (s.emit g).sp = s.sp := rfl
@[simp] theorem State.emit_dt (s : State) (g : Signal) : (s.emit g).dt = s.dt := rfl
@[simp] theorem State.emit_st (s : State) (g : Signal) : (s.emit g).st = s.st := rfl
@[simp] theorem State.emit_fb (s : State) (g : Signal) : (s.emit g).fb = s.fb := rfl
@[simp] theorem State.emit_status (s : State) (g : Signal) : (s.emit g).status = s.status := rfl
@[simp] theorem State.emit_signal (s : State) (g : Signal) : (s.emit g).signal = some g := rfl
@[simp] theorem State.emit_keyQueries (s : State) (g : Signal) : (s.emit g).keyQueries = s.keyQueries := rfl
@[simp] theorem State.emit_randDraws (s : State) (g : Signal) : (s.emit g).randDraws = s.randDraws := rfl
@[simp] theorem State.emit_tickChecks (s : State) (g : Signal) : (s.emit g).tickChecks = s.tickChecks := rfl
@[simp] theorem State.emit_reg (s : State) (g : Signal) (r : RegIdx) : (s.emit g).reg r = s.reg r := rfl

/-! ### `haltAt` -/

@[simp] theorem State.haltAt_mem (s : State) (e : ErrorRecord) : (s.haltAt e).mem = s.mem := rfl
@[simp] theorem State.haltAt_v (s : State) (e : ErrorRecord) : (s.haltAt e).v = s.v := rfl
@[simp] theorem State.haltAt_regI (s : State) (e : ErrorRecord) : (s.haltAt e).regI = s.regI := rfl
@[simp] theorem State.haltAt_pc (s : State) (e : ErrorRecord) : (s.haltAt e).pc = e.addr := rfl
@[simp] theorem State.haltAt_stack (s : State) (e : ErrorRecord) : (s.haltAt e).stack = s.stack := rfl
@[simp] theorem State.haltAt_sp (s : State) (e : ErrorRecord) : (s.haltAt e).sp = s.sp := rfl
@[simp] theorem State.haltAt_dt (s : State) (e : ErrorRecord) : (s.haltAt e).dt = s.dt := rfl
@[simp] theorem State.haltAt_st (s : State) (e : ErrorRecord) : (s.haltAt e).st = s.st := rfl
@[simp] theorem State.haltAt_fb (s : State) (e : ErrorRecord) : (s.haltAt e).fb = s.fb := rfl
@[simp] theorem State.haltAt_status (s : State) (e : ErrorRecord) : (s.haltAt e).status = .halted e := rfl
@[simp] theorem State.haltAt_signal (s : State) (e : ErrorRecord) : (s.haltAt e).signal = s.signal := rfl
@[simp] theorem State.haltAt_keyQueries (s : State) (e : ErrorRecord) : (s.haltAt e).keyQueries = s.keyQueries := rfl
@[simp] theorem State.haltAt_randDraws (s : State) (e : ErrorRecord) : (s.haltAt e).randDraws = s.randDraws := rfl
@[simp] theorem State.haltAt_tickChecks (s : State) (e : ErrorRecord) : (s.haltAt e).tickChecks = s.tickChecks := rfl
@[simp] theorem State.haltAt_reg (s : State) (e : ErrorRecord) (r : RegIdx) : (s.haltAt e).reg r = s.reg r := rfl

/-! ### `setRegsFrom` -/

@[simp] theorem State.setRegsFrom_mem (s : State) (bs : List Byte) : (s.setRegsFrom bs).mem = s.mem := rfl
@[simp] theorem State.setRegsFrom_regI (s : State) (bs : List Byte) : (s.setRegsFrom bs).regI = s.regI := rfl
@[simp] theorem State.setRegsFrom_pc (s : State) (bs : List Byte) : (s.setRegsFrom bs).pc = s.pc := rfl
@[simp] theorem State.setRegsFrom_stack (s : State) (bs : List Byte) : (s.setRegsFrom bs).stack = s.stack := rfl
@[simp] theorem State.setRegsFrom_sp (s : State) (bs : List Byte) : (s.setRegsFrom bs).sp = s.sp := rfl
@[simp] theorem State.setRegsFrom_dt (s : State) (bs : List Byte) : (s.setRegsFrom bs).dt = s.dt := rfl
@[simp] theorem State.setRegsFrom_st (s : State) (bs : List Byte) : (s.setRegsFrom bs).st = s.st := rfl
@[simp] theorem State.setRegsFrom_fb (s : State) (bs : List Byte) : (s.setRegsFrom bs).fb = s.fb := rfl
@[simp] theorem State.setRegsFrom_status (s : State) (bs : List Byte) : (s.setRegsFrom bs).status = s.status := rfl
@[simp] theorem State.setRegsFrom_signal (s : State) (bs : List Byte) : (s.setRegsFrom bs).signal = s.signal := rfl
@[simp] theorem State.setRegsFrom_keyQueries (s : State) (bs : List Byte) : (s.setRegsFrom bs).keyQueries = s.keyQueries := rfl
@[simp] theorem State.setRegsFrom_randDraws (s : State) (bs : List Byte) : (s.setRegsFrom bs).randDraws = s.randDraws := rfl
@[simp] theorem State.setRegsFrom_tickChecks (s : State) (bs : List Byte) : (s.setRegsFrom bs).tickChecks = s.tickChecks := rfl

/-! ### `setResultAndFlag` -/

@[simp] theorem State.setResultAndFlag_mem (s : State) (x : RegIdx) (b : Byte) (f : Bool) : (s.setResultAndFlag x b f).mem = s.mem := rfl
@[simp] theorem State.setResultAndFlag_regI (s : State) (x : RegIdx) (b : Byte) (f : Bool) : (s.setResultAndFlag x b f).regI = s.regI := rfl
@[simp] theorem State.setResultAndFlag_pc (s : State) (x : RegIdx) (b : Byte) (f : Bool) : (s.setResultAndFlag x b f).pc = s.pc := rfl
@[simp] theorem State.setResultAndFlag_stack (s : State) (x : RegIdx) (b : Byte) (f : Bool) : (s.setResultAndFlag x b f).stack = s.stack := rfl
@[simp] theorem State.setResultAndFlag_sp (s : State) (x : RegIdx) (b : Byte) (f : Bool) : (s.setResultAndFlag x b f).sp = s.sp := rfl
@[simp] theorem State.setResultAndFlag_dt (s : State) (x : RegIdx) (b : Byte) (f : Bool) : (s.setResultAndFlag x b f).dt = s.dt := rfl
@[simp] theorem State.setResultAndFlag_st (s : State) (x : RegIdx) (b : Byte) (f : Bool) : (s.setResultAndFlag x b f).st = s.st := rfl
@[simp] theorem State.setResultAndFlag_fb (s : State) (x : RegIdx) (b : Byte) (f : Bool) : (s.setResultAndFlag x b f).fb = s.fb := rfl
@[simp] theorem State.setResultAndFlag_status (s : State) (x : RegIdx) (b : Byte) (f : Bool) : (s.setResultAndFlag x b f).status = s.status := rfl
@[simp] theorem State.setResultAndFlag_signal (s : State) (x : RegIdx) (b : Byte) (f : Bool) : (s.setResultAndFlag x b f).signal = s.signal := rfl
@[simp] theorem State.setResultAndFlag_keyQueries (s : State) (x : RegIdx) (b : Byte) (f : Bool) : (s.setResultAndFlag x b f).keyQueries = s.keyQueries := rfl
@[simp] theorem State.setResultAndFlag_randDraws (s : State) (x : RegIdx) (b : Byte) (f : Bool) : (s.setResultAndFlag x b f).randDraws = s.randDraws := rfl
@[simp] theorem State.setResultAndFlag_tickChecks (s : State) (x : RegIdx) (b : Byte) (f : Bool) : (s.setResultAndFlag x b f).tickChecks = s.tickChecks := rfl

/-! ### `skipWhen` -/

@[simp] theorem skipWhen_mem (s : State) (c : Bool) : (skipWhen c s).mem = s.mem := rfl
@[simp] theorem skipWhen_v (s : State) (c : Bool) : (skipWhen c s).v = s.v := rfl
@[simp] theorem skipWhen_regI (s : State) (c : Bool) : (skipWhen c s).regI = s.regI := rfl
@[simp] theorem skipWhen_pc (s : State) (c : Bool) : (skipWhen c s).pc = if c then s.pc + 2 else s.pc := rfl
@[simp] theorem skipWhen_stack (s : State) (c : Bool) : (skipWhen c s).stack = s.stack := rfl
@[simp] theorem skipWhen_sp (s : State) (c : Bool) : (skipWhen c s).sp = s.sp := rfl
@[simp] theorem skipWhen_dt (s : State) (c : Bool) : (skipWhen c s).dt = s.dt := rfl
@[simp] theorem skipWhen_st (s : State) (c : Bool) : (skipWhen c s).st = s.st := rfl
@[simp] theorem skipWhen_fb (s : State) (c : Bool) : (skipWhen c s).fb = s.fb := rfl
@[simp] theorem skipWhen_status (s : State) (c : Bool) : (skipWhen c s).status = s.status := rfl
@[simp] theorem skipWhen_signal (s : State) (c : Bool) : (skipWhen c s).signal = s.signal := rfl
@[simp] theorem skipWhen_keyQueries (s : State) (c : Bool) : (skipWhen c s).keyQueries = s.keyQueries := rfl
@[simp] theorem skipWhen_randDraws (s : State) (c : Bool) : (skipWhen c s).randDraws = s.randDraws := rfl
@[simp] theorem skipWhen_tickChecks (s : State) (c : Bool) : (skipWhen c s).tickChecks = s.tickChecks := rfl
@[simp] theorem skipWhen_reg (s : State) (c : Bool) (r : RegIdx) : (skipWhen c s).reg r = s.reg r := rfl

/-! ### `timerTick` -/

@[simp] theorem timerTick_mem (s : State) (f : Bool) : (timerTick f s).mem = s.mem := rfl
@[simp] theorem timerTick_v (s : State) (f : Bool) : (timerTick f s).v = s.v := rfl
@[simp] theorem timerTick_regI (s : State) (f : Bool) : (timerTick f s).regI = s.regI := rfl
@[simp] theorem timerTick_pc (s : State) (f : Bool) : (timerTick f s).pc = s.pc := rfl
@[simp] theorem timerTick_stack (s : State) (f : Bool) : (timerTick f s).stack = s.stack := rfl
@[simp] theorem timerTick_sp (s : State) (f : Bool) : (timerTick f s).sp = s.sp := rfl
@[simp] theorem timerTick_dt (s : State) (f : Bool) : (timerTick f s).dt = if f then countdown s.dt else s.dt := rfl
@[simp] theorem timerTick_st (s : State) (f : Bool) : (timerTick f s).st = if f then countdown s.st else s.st := rfl
@[simp] theorem timerTick_fb (s : State) (f : Bool) : (timerTick f s).fb = s.fb := rfl
@[simp] theorem timerTick_status (s : State) (f : Bool) : (timerTick f s).status = s.status := rfl
@[simp] theorem timerTick_signal (s : State) (f : Bool) : (timerTick f s).signal = s.signal := rfl
@[simp] theorem timerTick_keyQueries (s : State) (f : Bool) : (timerTick f s).keyQueries = s.keyQueries := rfl
@[simp] theorem timerTick_randDraws (s : State) (f : Bool) : (timerTick f s).randDraws = s.randDraws := rfl
@[simp] theorem timerTick_tickChecks (s : State) (f : Bool) : (timerTick f s).tickChecks = s.tickChecks := rfl
@[simp] theorem timerTick_reg (s : State) (f : Bool) (r : RegIdx) : (timerTick f s).reg r = s.reg r := rfl

/-! ### `timerCheck` -/

@[simp] theorem timerCheck_mem (s : State) : (timerCheck s).mem = s.mem := rfl
@[simp] theorem timerCheck_v (s : State) : (timerCheck s).v = s.v := rfl
@[simp] theorem timerCheck_regI (s : State) : (timerCheck s).regI = s.regI := rfl
@[simp] theorem timerCheck_pc (s : State) : (timerCheck s).pc = s.pc := rfl
@[simp] theorem timerCheck_stack (s : State) : (timerCheck s).stack = s.stack := rfl
@[simp] theorem timerCheck_sp (s : State) : (timerCheck s).sp = s.sp := rfl
@[simp] theorem timerCheck_dt (s : State) : (timerCheck s).dt = if Config.tick s.tickChecks then countdown s.dt else s.dt := rfl
@[simp] theorem timerCheck_st (s : State) : (timerCheck s).st = if Config.tick s.tickChecks then countdown s.st else s.st := rfl
@[simp] theorem timerCheck_fb (s : State) : (timerCheck s).fb = s.fb := rfl
@[simp] theorem timerCheck_status (s : State) : (timerCheck s).status = s.status := rfl
@[simp] theorem timerCheck_signal (s : State) : (timerCheck s).signal = s.signal := rfl
@[simp] theorem timerCheck_keyQueries (s : State) : (timerCheck s).keyQueries = s.keyQueries := rfl
@[simp] theorem timerCheck_randDraws (s : State) : (timerCheck s).randDraws = s.randDraws := rfl
@[simp] theorem timerCheck_tickChecks (s : State) : (timerCheck s).tickChecks = s.tickChecks + 1 := rfl
@[simp] theorem timerCheck_reg (s : State)  (r : RegIdx) : (timerCheck s).reg r = s.reg r := rfl

/-! ### `advance` -/

@[simp] theorem advance_mem (s : State) : (advance s).mem = s.mem := rfl
@[simp] theorem advance_v (s : State) : (advance s).v = s.v := rfl
@[simp] theorem advance_regI (s : State) : (advance s).regI = s.regI := rfl
@[simp] theorem advance_pc (s : State) : (advance s).pc = s.pc + 2 := rfl
@[simp] theorem advance_stack (s : State) : (advance s).stack = s.stack := rfl
@[simp] theorem advance_sp (s : State) : (advance s).sp = s.sp := rfl
@[simp] theorem advance_dt (s : State) : (advance s).dt = s.dt := rfl
@[simp] theorem advance_st (s : State) : (advance s).st = s.st := rfl
@[simp] theorem advance_fb (s : State) : (advance s).fb = s.fb := rfl
@[simp] theorem advance_status (s : State) : (advance s).status = s.status := rfl
@[simp] theorem advance_signal (s : State) : (advance s).signal = s.signal := rfl
@[simp] theorem advance_keyQueries (s : State) : (advance s).keyQueries = s.keyQueries := rfl
@[simp] theorem advance_randDraws (s : State) : (advance s).randDraws = s.randDraws := rfl
@[simp] theorem advance_tickChecks (s : State) : (advance s).tickChecks = s.tickChecks := rfl
@[simp] theorem advance_reg (s : State)  (r : RegIdx) : (advance s).reg r = s.reg r := rfl

/-! ### Registers after a write -/

theorem State.setReg_reg (s : State) (x r : RegIdx) (b : Byte) :
    (s.setReg x b).reg r = if r = x then b else s.reg r := by
  simp only [State.reg, State.setReg, Vector.getElem_set, BitVec.toNat_inj, eq_comm]

@[simp] theorem State.setReg_reg_same (s : State) (x : RegIdx) (b : Byte) : (s.setReg x b).reg x = b := by
  simp [State.setReg_reg]

theorem State.setReg_reg_other (s : State) {x r : RegIdx} (b : Byte) (h : r ≠ x) :
    (s.setReg x b).reg r = s.reg r := by
  simp [State.setReg_reg, h]

@[simp] theorem State.setReg_self (s : State) (x : RegIdx) : s.setReg x (s.reg x) = s := by
  simp [State.setReg, State.reg]

/-- The flag is written last (40_cycle.md R101). -/
theorem State.setResultAndFlag_reg (s : State) (x r : RegIdx) (b : Byte) (f : Bool) :
    (s.setResultAndFlag x b f).reg r = if r = vf then flagByte f else if r = x then b else s.reg r := by
  simp [State.setResultAndFlag, State.setReg_reg]

theorem State.setRegsFrom_reg (s : State) (bs : List Byte) (r : RegIdx) :
    (s.setRegsFrom bs).reg r = bs.getD r.toNat (s.reg r) := by
  simp [State.setRegsFrom, State.reg]

/-- Two states with the same fields are the same, register by register. -/
theorem State.v_ext {a b : Vector Byte 16} (h : ∀ r : RegIdx, a[r.toNat]'r.isLt = b[r.toNat]'r.isLt) : a = b := by
  apply Vector.ext
  intro i hi
  simpa [BitVec.toNat_ofNat, Nat.mod_eq_of_lt hi] using h (BitVec.ofNat 4 i)

end Sys2Proof.Machine
end

