-- ==== Sys2Proof/Laws/Ops.lean ====
section
/-! SUPPORT. For each shared operation, one lemma that says what it can do. -/

namespace Sys2Proof.Machine

/-! ### How an instruction ends -/

theorem complete_eq (sig : Signal) (s : State) : complete sig s = .next (s.emit sig) := rfl

theorem raise_eq (kind : ErrorKind) (info : Option Nat) (word : Word) (s : State) :
    raise kind info word s = .next (s.haltAt ⟨kind, s.pc - 2, some word, info⟩) := rfl

theorem halt_eq (kind : ErrorKind) (addr : Word) (word : Option Word) (info : Option Nat) (s : State) :
    halt kind addr word info s = .next (s.haltAt ⟨kind, addr, word, info⟩) := rfl

/-! ### The address checks -/

/-- A block passes the check exactly when each of its addresses is inside the address space. -/
theorem badAddress_eq_none (base : Word) (n : Nat) :
    badAddress base n = none ↔ ∀ k, k < n → base.toNat + k ≤ 0xFFF := by
  unfold badAddress
  split_ifs with h
  · simp only [false_iff, not_forall]
    exact ⟨n - 1, by omega, by omega⟩
  · simp only [true_iff]
    intro k hk
    omega

theorem badAddress_eq_some (base : Word) (n bad : Nat) :
    badAddress base n = some bad ↔ 0 < n ∧ base.toNat + n > 0x1000 ∧ bad = max base.toNat 0x1000 := by
  unfold badAddress
  split_ifs with h
  · simp only [Option.some.injEq]
    omega
  · simp only [false_iff]
    omega

theorem fetchBad_eq_none (pc : Word) : fetchBad pc = none ↔ pc.toNat ≤ 0xFFE := by
  unfold fetchBad
  split_ifs with h <;> simp <;> omega

theorem fetchBad_of_gt {pc : Word} (h : 0xFFE < pc.toNat) : fetchBad pc = some (max pc.toNat 0x1000) := by
  unfold fetchBad
  rw [if_pos h]

/-! ### The call stack -/

theorem State.push_slot (s : State) (w : Word) (h : s.sp.val < 16) (j : Nat) (hj : j < 16) :
    (s.push w h).stack[j] = if j = s.sp.val then w else s.stack[j] := by
  simp only [State.push_stack, Vector.getElem_set, eq_comm]

/-! ### The framebuffer -/

theorem pixel_blank (r c : Nat) : pixel blankFb r c = false := by
  unfold pixel blankFb
  split_ifs <;> simp

theorem pixel_setPixel (f : Framebuffer) (r c r' c' : Nat) (b : Bool) :
    pixel (setPixel f r c b) r' c' = if r' = r ∧ c' = c ∧ r < 32 ∧ c < 64 then b else pixel f r' c' := by
  unfold setPixel
  by_cases h : r < 32 ∧ c < 64
  · rw [dif_pos h]
    unfold pixel
    by_cases h' : r' < 32 ∧ c' < 64
    · rw [dif_pos h', dif_pos h']
      by_cases hr : r = r'
      · subst hr
        by_cases hc : c = c'
        · subst hc; simp [h]
        · have hc' : ¬c' = c := fun e => hc e.symm
          simp [hc, hc']
      · have hr' : ¬r' = r := fun e => hr e.symm
        simp [hr, hr']
    · rw [dif_neg h', dif_neg h', if_neg (by omega)]
  · rw [dif_neg h, if_neg (by omega)]

/-- Two framebuffers with the same pixels are the same. -/
theorem Framebuffer.ext_pixel {f g : Framebuffer} (h : ∀ r c, pixel f r c = pixel g r c) : f = g := by
  apply Vector.ext
  intro r hr
  apply Vector.ext
  intro c hc
  simpa [pixel, hr, hc] using h r c

/-! ### The timers -/

theorem countdown_toNat (t : Byte) : (countdown t).toNat = t.toNat - 1 := by
  unfold countdown
  split_ifs with h
  · have := t.isLt
    rw [BitVec.toNat_sub]
    simp
    omega
  · omega

/-! ### The end of a cycle -/

theorem finishCycle_running {t : State} (h : t.status = .running) : finishCycle (.next t) = .next (timerCheck t) := by
  simp only [finishCycle, h]

theorem finishCycle_halted {t : State} {e : ErrorRecord} (h : t.status = .halted e) :
    finishCycle (.next t) = .next t := by
  simp only [finishCycle, h]

/-- A cycle that answers a next state ends either with the timer check or in an error. -/
theorem finishCycle_cases {r : Result} {t : State} (h : finishCycle r = .next t) :
    ∃ u, r = .next u ∧ ((u.status = .running ∧ t = timerCheck u) ∨ ((∃ e, u.status = .halted e) ∧ t = u)) := by
  cases r with
  | next u =>
    refine ⟨u, rfl, ?_⟩
    simp only [finishCycle] at h
    split at h
    · exact .inl ⟨‹_›, by cases h; rfl⟩
    · exact .inr ⟨⟨_, ‹_›⟩, by cases h; rfl⟩
  | fault f => simp [finishCycle] at h
  | refused q => simp [finishCycle] at h

end Sys2Proof.Machine
end

