-- ==== Sys2Proof/Laws/Display.lean ====
section
/-! SUPPORT. The sprite blit, bit by bit, byte by byte and as a whole: which pixels it toggles and when it collides. -/

namespace Sys2Proof.Machine

/-- The bit that a sprite byte in row `r0` from column `cx` lands on a position, if it covers it. -/
def byteBit (cx r0 : Nat) (byte : Byte) (r c : Nat) : Bool :=
  decide (r = r0 ∧ cx ≤ c ∧ c < cx + 8) && byte.getLsbD (7 - (c - cx))

/-- The bit that a sprite whose first row is `cy` lands on a position, if it covers it. -/
def spriteBit (cx cy : Nat) (sprite : List Byte) (r c : Nat) : Bool :=
  decide (cy ≤ r ∧ r < cy + sprite.length ∧ cx ≤ c ∧ c < cx + 8) &&
    (sprite.getD (r - cy) 0).getLsbD (7 - (c - cx))

theorem blitBit_pixel (bit : Bool) (r0 c0 r c : Nat) (acc : Framebuffer × Bool) (hr : r < 32) (hc : c < 64) :
    pixel (blitBit bit r0 c0 acc).1 r c = (pixel acc.1 r c ^^ (decide (r = r0 ∧ c = c0) && bit)) := by
  unfold blitBit
  by_cases h : r0 ≤ 31 ∧ c0 ≤ 63 ∧ bit = true
  · rw [if_pos h]
    obtain ⟨h1, h2, rfl⟩ := h
    by_cases hp : r = r0 ∧ c = c0
    · obtain ⟨rfl, rfl⟩ := hp
      cases hv : pixel acc.1 r c <;> simp [pixel_setPixel, hr, hc]
    · rw [decide_eq_false hp, Bool.false_and, Bool.xor_false]
      have hp' : ¬(r = r0 ∧ c = c0 ∧ r0 < 32 ∧ c0 < 64) := fun h => hp ⟨h.1, h.2.1⟩
      split_ifs
      · exact (pixel_setPixel _ _ _ _ _ _).trans (if_neg hp')
      · exact (pixel_setPixel _ _ _ _ _ _).trans (if_neg hp')
  · rw [if_neg h]
    by_cases hp : r = r0 ∧ c = c0
    · obtain ⟨rfl, rfl⟩ := hp
      have : bit = false := by
        by_contra hb
        exact h ⟨by omega, by omega, by simpa using hb⟩
      simp [this]
    · simp [hp]

theorem blitBit_flag (bit : Bool) (r0 c0 : Nat) (acc : Framebuffer × Bool) :
    (blitBit bit r0 c0 acc).2 = (acc.2 || (bit && pixel acc.1 r0 c0)) := by
  unfold blitBit
  by_cases h : r0 ≤ 31 ∧ c0 ≤ 63 ∧ bit = true
  · rw [if_pos h]
    obtain ⟨h1, h2, rfl⟩ := h
    cases hv : pixel acc.1 r0 c0 <;> simp
  · rw [if_neg h]
    cases hb : bit
    · simp
    · have : pixel acc.1 r0 c0 = false := by
        unfold pixel
        rw [dif_neg]
        rintro ⟨h1, h2⟩
        exact h ⟨by omega, by omega, hb⟩
      simp [this]

/-- A fold of blits in one row over the columns `cx + b` for b below m. -/
theorem blitFold_pixel (cx r0 : Nat) (byte : Byte) (acc : Framebuffer × Bool) (m : Nat) (r c : Nat) (hr : r < 32)
    (hc : c < 64) :
    pixel ((List.range m).foldl (fun acc b => blitBit (byte.getLsbD (7 - b)) r0 (cx + b) acc) acc).1 r c =
      (pixel acc.1 r c ^^ (decide (r = r0 ∧ cx ≤ c ∧ c < cx + m) && byte.getLsbD (7 - (c - cx)))) := by
  induction m with
  | zero =>
    have : ¬(r = r0 ∧ cx ≤ c ∧ c < cx + 0) := by omega
    rw [decide_eq_false this]
    simp
  | succ m ih =>
    rw [List.range_succ, List.foldl_append, List.foldl_cons, List.foldl_nil, blitBit_pixel _ _ _ _ _ _ hr hc, ih]
    by_cases h1 : r = r0 ∧ c = cx + m
    · obtain ⟨rfl, rfl⟩ := h1
      simp
    · have h2 : (r = r0 ∧ cx ≤ c ∧ c < cx + (m + 1)) ↔ (r = r0 ∧ cx ≤ c ∧ c < cx + m) := by omega
      rw [decide_eq_false h1]
      simp only [h2, Bool.false_and, Bool.xor_false]

/-- The pixels after one sprite byte. -/
theorem blitByte_pixel (cx r0 : Nat) (byte : Byte) (acc : Framebuffer × Bool) (r c : Nat) (hr : r < 32) (hc : c < 64) :
    pixel (blitByte cx r0 byte acc).1 r c = (pixel acc.1 r c ^^ byteBit cx r0 byte r c) :=
  blitFold_pixel cx r0 byte acc 8 r c hr hc

theorem blitFold_flag (cx r0 : Nat) (byte : Byte) (acc : Framebuffer × Bool) (m : Nat) :
    ((List.range m).foldl (fun acc b => blitBit (byte.getLsbD (7 - b)) r0 (cx + b) acc) acc).2 = true ↔
      acc.2 = true ∨ ∃ b, b < m ∧ byte.getLsbD (7 - b) = true ∧ pixel acc.1 r0 (cx + b) = true := by
  induction m with
  | zero => simp
  | succ m ih =>
    rw [List.range_succ, List.foldl_append, List.foldl_cons, List.foldl_nil, blitBit_flag, Bool.or_eq_true, ih,
      Bool.and_eq_true]
    have hpx : pixel ((List.range m).foldl (fun acc b => blitBit (byte.getLsbD (7 - b)) r0 (cx + b) acc) acc).1 r0
        (cx + m) = pixel acc.1 r0 (cx + m) := by
      by_cases hon : r0 < 32 ∧ cx + m < 64
      · rw [blitFold_pixel _ _ _ _ _ _ _ hon.1 hon.2]
        have : ¬(r0 = r0 ∧ cx ≤ cx + m ∧ cx + m < cx + m) := by omega
        simp
      · unfold pixel
        rw [dif_neg hon, dif_neg hon]
    rw [hpx]
    constructor
    · rintro ((h | ⟨b, hb, h1, h2⟩) | ⟨h1, h2⟩)
      · exact .inl h
      · exact .inr ⟨b, by omega, h1, h2⟩
      · exact .inr ⟨m, by omega, h1, h2⟩
    · rintro (h | ⟨b, hb, h1, h2⟩)
      · exact .inl (.inl h)
      · by_cases hbm : b = m
        · subst hbm; exact .inr ⟨h1, h2⟩
        · exact .inl (.inr ⟨b, by omega, h1, h2⟩)

/-- When one sprite byte collides. -/
theorem blitByte_flag (cx r0 : Nat) (byte : Byte) (acc : Framebuffer × Bool) :
    (blitByte cx r0 byte acc).2 = true ↔
      acc.2 = true ∨ ∃ r c, r < 32 ∧ c < 64 ∧ byteBit cx r0 byte r c = true ∧ pixel acc.1 r c = true := by
  unfold blitByte
  rw [blitFold_flag]
  refine or_congr Iff.rfl ⟨?_, ?_⟩
  · rintro ⟨b, hb, h1, h2⟩
    have hon : r0 < 32 ∧ cx + b < 64 := by
      by_contra hoff
      unfold pixel at h2
      rw [dif_neg hoff] at h2
      exact absurd h2 (by simp)
    refine ⟨r0, cx + b, hon.1, hon.2, ?_, h2⟩
    unfold byteBit
    rw [show cx + b - cx = b by omega, h1]
    simp
    omega
  · rintro ⟨r, c, hr, hc, h1, h2⟩
    unfold byteBit at h1
    simp only [Bool.and_eq_true, decide_eq_true_eq] at h1
    obtain ⟨⟨rfl, h3, h4⟩, h5⟩ := h1
    exact ⟨c - cx, by omega, h5, by rwa [show cx + (c - cx) = c by omega]⟩

theorem spriteBit_cons (cx r0 : Nat) (byte : Byte) (rest : List Byte) (r c : Nat) :
    spriteBit cx r0 (byte :: rest) r c = (byteBit cx r0 byte r c ^^ spriteBit cx (r0 + 1) rest r c) := by
  unfold spriteBit byteBit
  by_cases h : r = r0
  · subst h
    have h2 : ¬(r + 1 ≤ r) := by omega
    simp [h2]
  · by_cases h2 : r0 + 1 ≤ r
    · rw [show r - r0 = (r - (r0 + 1)) + 1 by omega, List.getD_cons_succ]
      have h3 : (r0 ≤ r ∧ r < r0 + (byte :: rest).length ∧ cx ≤ c ∧ c < cx + 8) ↔
          (r0 + 1 ≤ r ∧ r < r0 + 1 + rest.length ∧ cx ≤ c ∧ c < cx + 8) := by
        rw [List.length_cons]; omega
      have h4 : ¬(r = r0 ∧ cx ≤ c ∧ c < cx + 8) := by omega
      rw [decide_eq_false h4]
      simp only [h3, Bool.false_and, Bool.false_xor]
    · have h3 : ¬(r0 ≤ r) := by omega
      simp [h, h2, h3]

theorem blitRows_pixel (cx r0 : Nat) (sprite : List Byte) (acc : Framebuffer × Bool) (r c : Nat) (hr : r < 32)
    (hc : c < 64) :
    pixel (blitRows cx r0 sprite acc).1 r c = (pixel acc.1 r c ^^ spriteBit cx r0 sprite r c) := by
  induction sprite generalizing r0 acc with
  | nil =>
    have : ¬(r0 ≤ r ∧ r < r0 + ([] : List Byte).length ∧ cx ≤ c ∧ c < cx + 8) := by
      simp only [List.length_nil]; omega
    rw [blitRows, spriteBit, decide_eq_false this]
    simp
  | cons byte rest ih =>
    rw [blitRows, ih, blitByte_pixel _ _ _ _ _ _ hr hc, spriteBit_cons, Bool.xor_assoc]

theorem blitRows_flag (cx r0 : Nat) (sprite : List Byte) (acc : Framebuffer × Bool) :
    (blitRows cx r0 sprite acc).2 = true ↔
      acc.2 = true ∨ ∃ r c, r < 32 ∧ c < 64 ∧ spriteBit cx r0 sprite r c = true ∧ pixel acc.1 r c = true := by
  induction sprite generalizing r0 acc with
  | nil => simp [blitRows, spriteBit]
  | cons byte rest ih =>
    rw [blitRows, ih, blitByte_flag]
    have key : ∀ r c, r < 32 → c < 64 → byteBit cx r0 byte r c = true → spriteBit cx (r0 + 1) rest r c = false := by
      intro r c _ _ h
      unfold byteBit at h
      simp only [Bool.and_eq_true, decide_eq_true_eq] at h
      unfold spriteBit
      have : ¬(r0 + 1 ≤ r) := by omega
      simp [this]
    constructor
    · rintro ((h | ⟨r, c, hr, hc, h1, h2⟩) | ⟨r, c, hr, hc, h1, h2⟩)
      · exact .inl h
      · refine .inr ⟨r, c, hr, hc, ?_, h2⟩
        rw [spriteBit_cons, h1, key r c hr hc h1]; rfl
      · rw [blitByte_pixel _ _ _ _ _ _ hr hc] at h2
        cases hb : byteBit cx r0 byte r c
        · refine .inr ⟨r, c, hr, hc, ?_, by simpa [hb] using h2⟩
          rw [spriteBit_cons, h1, hb]; rfl
        · rw [key r c hr hc hb] at h1
          exact absurd h1 (by simp)
    · rintro (h | ⟨r, c, hr, hc, h1, h2⟩)
      · exact .inl (.inl h)
      · rw [spriteBit_cons] at h1
        cases hb : byteBit cx r0 byte r c
        · refine .inr ⟨r, c, hr, hc, by simpa [hb] using h1, ?_⟩
          rw [blitByte_pixel _ _ _ _ _ _ hr hc, hb, h2]; rfl
        · exact .inl (.inr ⟨r, c, hr, hc, hb, h2⟩)

/-- The pixels after a blit: XOR with the sprite, clipped at the edges. -/
theorem blit_pixel (cx cy : Nat) (sprite : List Byte) (f : Framebuffer) (r c : Nat) (hr : r < 32) (hc : c < 64) :
    pixel (blit cx cy sprite f).1 r c = (pixel f r c ^^ spriteBit cx cy sprite r c) :=
  blitRows_pixel cx cy sprite (f, false) r c hr hc

/-- When a blit collides. -/
theorem blit_flag (cx cy : Nat) (sprite : List Byte) (f : Framebuffer) :
    (blit cx cy sprite f).2 = true ↔
      ∃ r c, r < 32 ∧ c < 64 ∧ spriteBit cx cy sprite r c = true ∧ pixel f r c = true := by
  rw [blit, blitRows_flag]
  simp

end Sys2Proof.Machine
end

