-- ==== Sys2Proof/Laws/Exec.lean ====
section
/-! SUPPORT. What executing an instruction can do: it completes, keeping status and the count of ticks, or it raises. -/

namespace Sys2Proof.Machine

/-- The answer completes: a next state with a signal, the status and the tick count of `s`. -/
def Completes (s : State) (r : Result) : Prop :=
  ∃ (t : State) (sig : Signal), r = .next (t.emit sig) ∧ t.status = s.status ∧ t.tickChecks = s.tickChecks

/-- The answer is an error of the instruction whose word is `w`. -/
def Raises (w : Word) (s : State) (r : Result) : Prop := ∃ kind info, r = raise kind info w s

theorem completes_complete {s t : State} (sig : Signal) (h : t.status = s.status)
    (h' : t.tickChecks = s.tickChecks) : Completes s (complete sig t) := ⟨t, sig, rfl, h, h'⟩

theorem execGotoSub_of_lt (nnn : Addr) (s : State) (h : s.sp.val < 16) :
    execGotoSub nnn s = complete .noSignal ((s.push s.pc h).setPc (zextAddr nnn)) := by
  rw [execGotoSub, dif_pos h]

theorem execGotoSub_of_full (nnn : Addr) (s : State) (h : s.sp.val = 16) :
    execGotoSub nnn s = raise .stackOverflow none (encodeWord (.gotoSub nnn)) s := by
  rw [execGotoSub, dif_neg (by omega)]

theorem execReturnSub_of_pos (s : State) (h : 0 < s.sp.val) :
    execReturnSub s = complete .noSignal (s.pop.setPc (s.top h)) := by
  rw [execReturnSub, dif_pos h]

theorem execReturnSub_of_empty (s : State) (h : s.sp.val = 0) :
    execReturnSub s = raise .stackUnderflow none (encodeWord .returnSub) s := by
  rw [execReturnSub, dif_neg (by omega)]

/-- AddI with a new `I` of 0x1000 or more. -/
theorem execAddI_of_overflow (x : RegIdx) (s : State) (h : indexOverflow (s.regI + zextByte (s.reg x)) = true) :
    execAddI x s = complete .noSignal ((s.setI (s.regI + zextByte (s.reg x))).setReg vf 1) := by
  simp only [execAddI, h, if_true]

/-- AddI with a new `I` below 0x1000. -/
theorem execAddI_of_inside (x : RegIdx) (s : State) (h : indexOverflow (s.regI + zextByte (s.reg x)) = false) :
    execAddI x s = complete .noSignal (s.setI (s.regI + zextByte (s.reg x))) := by
  simp only [execAddI, h, Bool.false_eq_true, if_false]

theorem execBcdConvert_of_inside (x : RegIdx) (s : State) (h : badAddress s.regI 3 = none) :
    execBcdConvert x s = complete .noSignal (s.setMem (memWrite s.mem s.regI.toNat (bcdDigits (s.reg x)))) := by
  simp only [execBcdConvert, h]

theorem execStoreRegs_of_inside (x : RegIdx) (s : State) (h : badAddress s.regI (x.toNat + 1) = none) :
    execStoreRegs x s = complete .noSignal (s.setMem (memWrite s.mem s.regI.toNat (s.regsUpTo x))) := by
  simp only [execStoreRegs, h]

theorem execLoadRegs_of_inside (x : RegIdx) (s : State) (h : badAddress s.regI (x.toNat + 1) = none) :
    execLoadRegs x s = complete .noSignal (s.setRegsFrom (memRead s.mem s.regI.toNat (x.toNat + 1))) := by
  simp only [execLoadRegs, h]

/-- Executing an instruction completes or raises; it never refuses and never faults. -/
theorem exec_cases (i : Instr) (s : State) : Completes s (exec i s) ∨ Raises (encodeWord i) s (exec i s) := by
  cases i with
  | gotoSub nnn =>
    by_cases h : s.sp.val < 16
    · exact .inl (by rw [exec, execGotoSub_of_lt nnn s h]; exact completes_complete _ rfl rfl)
    · exact .inr ⟨_, _, execGotoSub_of_full nnn s (by omega)⟩
  | returnSub =>
    by_cases h : 0 < s.sp.val
    · exact .inl (by rw [exec, execReturnSub_of_pos s h]; exact completes_complete _ rfl rfl)
    · exact .inr ⟨_, _, execReturnSub_of_empty s (by omega)⟩
  | draw x y n =>
    rw [exec, execDraw]
    split
    · exact .inr ⟨_, _, rfl⟩
    · exact .inl (completes_complete _ rfl rfl)
  | bcdConvert x =>
    rw [exec, execBcdConvert]
    split
    · exact .inr ⟨_, _, rfl⟩
    · exact .inl (completes_complete _ rfl rfl)
  | storeRegs x =>
    rw [exec, execStoreRegs]
    split
    · exact .inr ⟨_, _, rfl⟩
    · exact .inl (completes_complete _ rfl rfl)
  | loadRegs x =>
    rw [exec, execLoadRegs]
    split
    · exact .inr ⟨_, _, rfl⟩
    · exact .inl (completes_complete _ rfl rfl)
  | addI x =>
    refine .inl (completes_complete _ ?_ ?_) <;> split_ifs <;> rfl
  | clear => exact .inl (completes_complete _ rfl rfl)
  | jump nnn => exact .inl (completes_complete _ rfl rfl)
  | skipEqual x kk => exact .inl (completes_complete _ rfl rfl)
  | skipNotEqual x kk => exact .inl (completes_complete _ rfl rfl)
  | skipVXEqualVY x y i => exact .inl (completes_complete _ rfl rfl)
  | setVX x kk => exact .inl (completes_complete _ rfl rfl)
  | addVX x kk => exact .inl (completes_complete _ rfl rfl)
  | move x y => exact .inl (completes_complete _ rfl rfl)
  | or x y => exact .inl (completes_complete _ rfl rfl)
  | and x y => exact .inl (completes_complete _ rfl rfl)
  | xor x y => exact .inl (completes_complete _ rfl rfl)
  | addReg x y => exact .inl (completes_complete _ rfl rfl)
  | subVYFromVX x y => exact .inl (completes_complete _ rfl rfl)
  | shiftRight x y => exact .inl (completes_complete _ rfl rfl)
  | subVXFromVY x y => exact .inl (completes_complete _ rfl rfl)
  | shiftLeft x y => exact .inl (completes_complete _ rfl rfl)
  | skipVXNotEqualVY x y i => exact .inl (completes_complete _ rfl rfl)
  | setI nnn => exact .inl (completes_complete _ rfl rfl)
  | jumpWithOffset nnn => exact .inl (completes_complete _ rfl rfl)
  | random x kk => exact .inl (completes_complete _ rfl rfl)
  | skipIfKey x => exact .inl (completes_complete _ rfl rfl)
  | skipIfNotKey x => exact .inl (completes_complete _ rfl rfl)
  | getDT x => exact .inl (completes_complete _ rfl rfl)
  | getKey x => exact .inl (completes_complete _ rfl rfl)
  | setDT x => exact .inl (completes_complete _ rfl rfl)
  | setST x => exact .inl (completes_complete _ rfl rfl)
  | fontChar x => exact .inl (completes_complete _ rfl rfl)

end Sys2Proof.Machine
end

