-- ==== Sys2Proof/Laws/Frame.lean ====
section
/-! SUPPORT. The frame predicates of Safety.lean: how a frame widens, and the two ways to meet the frame of an instruction
that may end in an error. -/

namespace Sys2Proof.Machine

theorem sameBut_mono {c d : List Piece} {s t : State} (h : SameBut c s t) (hcd : c ⊆ d) : SameBut d s t :=
  fun p hp => h p fun hc => hp (hcd hc)

/-- An instruction that completes within the listed pieces meets the frame. -/
theorem sameButOrHalts_of_completes {c : List Piece} {s t : State} (h : SameBut c s t) (hs : t.status = s.status) :
    SameButOrHalts c s t :=
  ⟨sameBut_mono h fun _ hp => .tail _ (.tail _ hp), fun hrun =>
    ⟨fun _ => h, fun err he => by rw [hs, hrun] at he; cases he⟩⟩

/-- Entering an error changes `pc` and `status` only. -/
theorem sameBut_haltAt (s : State) (err : ErrorRecord) : SameBut [.pc, .status] s (s.haltAt err) := by
  intro p hp
  cases p <;> first | exact absurd (by decide) hp | simp [Same]

/-- An error meets the frame of every instruction. -/
theorem sameButOrHalts_haltAt (c : List Piece) (s : State) (err : ErrorRecord) : SameButOrHalts c s (s.haltAt err) :=
  ⟨sameBut_mono (sameBut_haltAt s err) (by simp), fun _ =>
    ⟨fun h => (by cases h), fun _ _ => sameBut_haltAt s err⟩⟩

end Sys2Proof.Machine
end

