-- ==== Sys2Proof/Laws/PerInstr.lean ====
section
/-! SUPPORT. The per-instruction family `EncodesOnRow`: the word of an instruction lies on the instruction's own row of
the decode map (30_encoding.md R74). -/

namespace Sys2Proof.Laws.EncodesOnRow

/-- The encoded word meets the mask and match of the instruction's row. -/
def Statement (i : Instr) : Prop := encodeWord i &&& (rowOf i).2 = (rowOf i).1

theorem clear : Statement .clear := rfl

theorem returnSub : Statement .returnSub := rfl

theorem jump (nnn : Addr) : Statement (.jump nnn) := by
  rw [Statement, encodeWord, rowOf]
  exact (and_maskA_eq _ _ rfl).2 (by simp; rfl)

theorem gotoSub (nnn : Addr) : Statement (.gotoSub nnn) := by
  rw [Statement, encodeWord, rowOf]
  exact (and_maskA_eq _ _ rfl).2 (by simp; rfl)

theorem skipEqual (x : RegIdx) (kk : Byte) : Statement (.skipEqual x kk) := by
  rw [Statement, encodeWord, rowOf]
  exact (and_maskA_eq _ _ rfl).2 (by simp; rfl)

theorem skipNotEqual (x : RegIdx) (kk : Byte) : Statement (.skipNotEqual x kk) := by
  rw [Statement, encodeWord, rowOf]
  exact (and_maskA_eq _ _ rfl).2 (by simp; rfl)

theorem skipVXEqualVY (x : RegIdx) (y : RegIdx) (i : Nibble) : Statement (.skipVXEqualVY x y i) := by
  rw [Statement, encodeWord, rowOf]
  exact (and_maskA_eq _ _ rfl).2 (by simp; rfl)

theorem setVX (x : RegIdx) (kk : Byte) : Statement (.setVX x kk) := by
  rw [Statement, encodeWord, rowOf]
  exact (and_maskA_eq _ _ rfl).2 (by simp; rfl)

theorem addVX (x : RegIdx) (kk : Byte) : Statement (.addVX x kk) := by
  rw [Statement, encodeWord, rowOf]
  exact (and_maskA_eq _ _ rfl).2 (by simp; rfl)

theorem move (x : RegIdx) (y : RegIdx) : Statement (.move x y) := by
  rw [Statement, encodeWord, rowOf]
  exact (and_maskXYS_eq _ _ rfl rfl).2 (by simp; exact ⟨rfl, rfl⟩)

theorem or (x : RegIdx) (y : RegIdx) : Statement (.or x y) := by
  rw [Statement, encodeWord, rowOf]
  exact (and_maskXYS_eq _ _ rfl rfl).2 (by simp; exact ⟨rfl, rfl⟩)

theorem and (x : RegIdx) (y : RegIdx) : Statement (.and x y) := by
  rw [Statement, encodeWord, rowOf]
  exact (and_maskXYS_eq _ _ rfl rfl).2 (by simp; exact ⟨rfl, rfl⟩)

theorem xor (x : RegIdx) (y : RegIdx) : Statement (.xor x y) := by
  rw [Statement, encodeWord, rowOf]
  exact (and_maskXYS_eq _ _ rfl rfl).2 (by simp; exact ⟨rfl, rfl⟩)

theorem addReg (x : RegIdx) (y : RegIdx) : Statement (.addReg x y) := by
  rw [Statement, encodeWord, rowOf]
  exact (and_maskXYS_eq _ _ rfl rfl).2 (by simp; exact ⟨rfl, rfl⟩)

theorem subVYFromVX (x : RegIdx) (y : RegIdx) : Statement (.subVYFromVX x y) := by
  rw [Statement, encodeWord, rowOf]
  exact (and_maskXYS_eq _ _ rfl rfl).2 (by simp; exact ⟨rfl, rfl⟩)

theorem shiftRight (x : RegIdx) (y : RegIdx) : Statement (.shiftRight x y) := by
  rw [Statement, encodeWord, rowOf]
  exact (and_maskXYS_eq _ _ rfl rfl).2 (by simp; exact ⟨rfl, rfl⟩)

theorem subVXFromVY (x : RegIdx) (y : RegIdx) : Statement (.subVXFromVY x y) := by
  rw [Statement, encodeWord, rowOf]
  exact (and_maskXYS_eq _ _ rfl rfl).2 (by simp; exact ⟨rfl, rfl⟩)

theorem shiftLeft (x : RegIdx) (y : RegIdx) : Statement (.shiftLeft x y) := by
  rw [Statement, encodeWord, rowOf]
  exact (and_maskXYS_eq _ _ rfl rfl).2 (by simp; exact ⟨rfl, rfl⟩)

theorem skipVXNotEqualVY (x : RegIdx) (y : RegIdx) (i : Nibble) : Statement (.skipVXNotEqualVY x y i) := by
  rw [Statement, encodeWord, rowOf]
  exact (and_maskA_eq _ _ rfl).2 (by simp; rfl)

theorem setI (nnn : Addr) : Statement (.setI nnn) := by
  rw [Statement, encodeWord, rowOf]
  exact (and_maskA_eq _ _ rfl).2 (by simp; rfl)

theorem jumpWithOffset (nnn : Addr) : Statement (.jumpWithOffset nnn) := by
  rw [Statement, encodeWord, rowOf]
  exact (and_maskA_eq _ _ rfl).2 (by simp; rfl)

theorem random (x : RegIdx) (kk : Byte) : Statement (.random x kk) := by
  rw [Statement, encodeWord, rowOf]
  exact (and_maskA_eq _ _ rfl).2 (by simp; rfl)

theorem draw (x : RegIdx) (y : RegIdx) (n : Nibble) : Statement (.draw x y n) := by
  rw [Statement, encodeWord, rowOf]
  exact (and_maskA_eq _ _ rfl).2 (by simp; rfl)

theorem skipIfKey (x : RegIdx) : Statement (.skipIfKey x) := by
  rw [Statement, encodeWord, rowOf]
  exact (and_maskXS_eq _ _ rfl).2 (by simp; exact ⟨rfl, rfl⟩)

theorem skipIfNotKey (x : RegIdx) : Statement (.skipIfNotKey x) := by
  rw [Statement, encodeWord, rowOf]
  exact (and_maskXS_eq _ _ rfl).2 (by simp; exact ⟨rfl, rfl⟩)

theorem getDT (x : RegIdx) : Statement (.getDT x) := by
  rw [Statement, encodeWord, rowOf]
  exact (and_maskXS_eq _ _ rfl).2 (by simp; exact ⟨rfl, rfl⟩)

theorem getKey (x : RegIdx) : Statement (.getKey x) := by
  rw [Statement, encodeWord, rowOf]
  exact (and_maskXS_eq _ _ rfl).2 (by simp; exact ⟨rfl, rfl⟩)

theorem setDT (x : RegIdx) : Statement (.setDT x) := by
  rw [Statement, encodeWord, rowOf]
  exact (and_maskXS_eq _ _ rfl).2 (by simp; exact ⟨rfl, rfl⟩)

theorem setST (x : RegIdx) : Statement (.setST x) := by
  rw [Statement, encodeWord, rowOf]
  exact (and_maskXS_eq _ _ rfl).2 (by simp; exact ⟨rfl, rfl⟩)

theorem addI (x : RegIdx) : Statement (.addI x) := by
  rw [Statement, encodeWord, rowOf]
  exact (and_maskXS_eq _ _ rfl).2 (by simp; exact ⟨rfl, rfl⟩)

theorem fontChar (x : RegIdx) : Statement (.fontChar x) := by
  rw [Statement, encodeWord, rowOf]
  exact (and_maskXS_eq _ _ rfl).2 (by simp; exact ⟨rfl, rfl⟩)

theorem bcdConvert (x : RegIdx) : Statement (.bcdConvert x) := by
  rw [Statement, encodeWord, rowOf]
  exact (and_maskXS_eq _ _ rfl).2 (by simp; exact ⟨rfl, rfl⟩)

theorem storeRegs (x : RegIdx) : Statement (.storeRegs x) := by
  rw [Statement, encodeWord, rowOf]
  exact (and_maskXS_eq _ _ rfl).2 (by simp; exact ⟨rfl, rfl⟩)

theorem loadRegs (x : RegIdx) : Statement (.loadRegs x) := by
  rw [Statement, encodeWord, rowOf]
  exact (and_maskXS_eq _ _ rfl).2 (by simp; exact ⟨rfl, rfl⟩)

end Sys2Proof.Laws.EncodesOnRow
end

