-- ==== Sys2Proof/Laws/Step.lean ====
section
/-! SUPPORT. What one step can do. -/

namespace Sys2Proof.Machine

theorem step_halted {s : State} {e : ErrorRecord} (h : s.status = .halted e) : step s = .fault (.halted e) := by
  rw [step, cycle, h]

theorem step_badFetch {s : State} (h : s.status = .running) (hpc : 0xFFE < s.pc.toNat) :
    step s = .next (s.haltAt ⟨.addressOutOfRange, s.pc, none, some (max s.pc.toNat 0x1000)⟩) := by
  rw [step, cycle, h]
  simp only [runCycle, fetchBad_of_gt hpc, halt_eq]

theorem step_goodFetch {s : State} (h : s.status = .running) (hpc : s.pc.toNat ≤ 0xFFE) :
    step s = finishCycle (execDecoded (fetchWord s) (decodeWord (fetchWord s)) (advance s)) := by
  rw [step, cycle, h]
  simp only [runCycle, (fetchBad_eq_none s.pc).2 hpc]

/-- An error raised in the advanced state leaves the state before the cycle, halted. -/
theorem raise_advance (kind : ErrorKind) (info : Option Nat) (w : Word) (s : State) :
    raise kind info w (advance s) = .next (s.haltAt ⟨kind, s.pc, some w, info⟩) := by
  rw [raise_eq]
  simp only [advance_pc, BitVec.add_sub_cancel]
  rfl

/-- What executing the decoder's answer can do. -/
theorem execDecoded_cases (w : Word) (d : Decoded) (s : State) :
    Completes s (execDecoded w d s) ∨
      ∃ w' kind info, execDecoded w d s = raise kind info w' s ∧
        ((∃ i, d = .variant i ∧ w' = encodeWord i) ∨ (d = .errorFamily ∧ w' = w)) := by
  cases d with
  | variant i =>
    rcases exec_cases i s with h | ⟨kind, info, h⟩
    · exact .inl h
    · exact .inr ⟨_, kind, info, h, .inl ⟨i, rfl, rfl⟩⟩
  | noneWord => exact .inl (completes_complete _ rfl rfl)
  | errorFamily => exact .inr ⟨w, _, _, rfl, .inr ⟨rfl, rfl⟩⟩

/-- ALL that a step which answers a next state can be: the core was Running, and the fetch failed, or the cycle
completed and took its timer check, or the instruction raised and the state is the one before the cycle, halted. -/
theorem step_cases {s t : State} (h : step s = .next t) :
    s.status = .running ∧
      ((0xFFE < s.pc.toNat ∧ t = s.haltAt ⟨.addressOutOfRange, s.pc, none, some (max s.pc.toNat 0x1000)⟩) ∨
       (s.pc.toNat ≤ 0xFFE ∧ ∃ u, execDecoded (fetchWord s) (decodeWord (fetchWord s)) (advance s) = .next u ∧
          u.status = .running ∧ u.tickChecks = s.tickChecks ∧ t = timerCheck u) ∨
       (s.pc.toNat ≤ 0xFFE ∧ ∃ w kind info, t = s.haltAt ⟨kind, s.pc, some w, info⟩ ∧
          execDecoded (fetchWord s) (decodeWord (fetchWord s)) (advance s) = raise kind info w (advance s) ∧
          ((∃ i, decodeWord (fetchWord s) = .variant i ∧ w = encodeWord i) ∨
           (decodeWord (fetchWord s) = .errorFamily ∧ w = fetchWord s)))) := by
  cases hs : s.status with
  | halted e => rw [step_halted hs] at h; exact absurd h (by simp)
  | running =>
    refine ⟨rfl, ?_⟩
    by_cases hpc : 0xFFE < s.pc.toNat
    · rw [step_badFetch hs hpc] at h
      exact .inl ⟨hpc, by cases h; rfl⟩
    · have hpc' : s.pc.toNat ≤ 0xFFE := by omega
      rw [step_goodFetch hs hpc'] at h
      rcases execDecoded_cases (fetchWord s) (decodeWord (fetchWord s)) (advance s) with
        ⟨u, sig, hu, hstatus, hticks⟩ | ⟨w, kind, info, hr, hw⟩
      · have hrun : (u.emit sig).status = .running := by rw [State.emit_status, hstatus, advance_status, hs]
        rw [hu, finishCycle_running hrun] at h
        exact .inr (.inl ⟨hpc', _, hu, hrun, by simpa using hticks, by cases h; rfl⟩)
      · rw [hr, raise_advance, finishCycle_halted (State.haltAt_status _ _)] at h
        exact .inr (.inr ⟨hpc', w, kind, info, by cases h; rfl, hr, hw⟩)

end Sys2Proof.Machine
end

