-- ==== Sys2Proof/Tests/Slice0.lean ====
section
/-! SUPPORT. The model's own tests. A test's expected result is the vector of 95_test_vectors.md that it names (L1, L2),
or the rule it names. Three parts: the checks of WellFormed and the decoder, one step per instruction, and for every
statement with hypotheses a witness that meets them. -/

namespace Sys2Proof.Tests

-- One theorem at a time: checked side by side, these theorems' threads reserve more memory than a check allows.
set_option Elab.async false

open Sys2Proof Sys2Proof.Machine

/-! ## Helpers -/

/-- The state with the listed registers written. -/
def regs (rs : List (RegIdx × Byte)) (s : State) : State := rs.foldl (fun s p => s.setReg p.1 p.2) s

/-- The state with the listed bytes of memory written from `a` on. -/
def bytes (a : Nat) (bs : List Byte) (s : State) : State := s.setMem (memWrite s.mem a bs)

/-- One step of the state with the word placed at `pc`. -/
def run (w : Nat) (s : State) : Result := step (s.withFetchWord 16 w)

/-- The answer is a next state that passes the check. -/
def nextIs (r : Result) (check : State → Bool) : Bool :=
  match r with
  | .next t => check t
  | _ => false

/-- The core halted with this error record. -/
def haltedWith (kind : ErrorKind) (addr : Word) (word : Option Word) (info : Option Nat) (t : State) : Bool :=
  decide (t.status = .halted ⟨kind, addr, word, info⟩)

/-! ## WellFormed -/

/-- 30_encoding.md R85: an ignored field assembles as 0, so these are not assembled. -/
theorem test_wellformed_refuses_low_nibble :
    Instr.isAssembled (.skipVXEqualVY 1 2 0xF) = false ∧ Instr.isAssembled (.skipVXNotEqualVY 1 2 0x1) = false ∧
    Instr.isAssembled (.skipVXEqualVY 1 2 0) = true ∧ Instr.isAssembled (.skipVXNotEqualVY 1 2 0) = true ∧
    Instr.isAssembled (.shiftRight 1 0xF) = true := by decide

/-- 70_reset_and_hazards.md R283; vectors for ROM lengths 0, 3584 and 3585. -/
theorem test_wellformed_refuses_long_rom :
    romFits 3585 = false ∧ romFits 3584 = true ∧ romFits 0 = true := by decide

/-! ## The decoder: each word written bit by bit from the match column of 30_encoding.md R74 -/

/-- Families 0 to 7. -/
theorem test_decode_families_0_to_7 :
    decodeWord 0b0000000011100000 = .variant .clear ∧
    decodeWord 0b0000000011101110 = .variant .returnSub ∧
    decodeWord 0b0001000011101110 = .variant (.jump 0x0EE) ∧
    decodeWord 0b0010111111111111 = .variant (.gotoSub 0xFFF) ∧
    decodeWord 0b0011101001111111 = .variant (.skipEqual 0xA 0x7F) ∧
    decodeWord 0b0100000000000000 = .variant (.skipNotEqual 0 0) ∧
    decodeWord 0b0101000100101111 = .variant (.skipVXEqualVY 1 2 0xF) ∧
    decodeWord 0b0110111111111111 = .variant (.setVX 0xF 0xFF) ∧
    decodeWord 0b0111000000000001 = .variant (.addVX 0 1) := by decide

/-- Family 8, L2-E13. -/
theorem test_decode_family_8 :
    decodeWord 0b1000000100100000 = .variant (.move 1 2) ∧
    decodeWord 0b1000000100100001 = .variant (.or 1 2) ∧
    decodeWord 0b1000000100100010 = .variant (.and 1 2) ∧
    decodeWord 0b1000000100100011 = .variant (.xor 1 2) ∧
    decodeWord 0b1000000100100100 = .variant (.addReg 1 2) ∧
    decodeWord 0b1000000100100101 = .variant (.subVYFromVX 1 2) ∧
    decodeWord 0b1000000100100110 = .variant (.shiftRight 1 2) ∧
    decodeWord 0b1000000100100111 = .variant (.subVXFromVY 1 2) ∧
    decodeWord 0b1000000100101110 = .variant (.shiftLeft 1 2) := by decide

/-- Families 9 to E. -/
theorem test_decode_families_9_to_E :
    decodeWord 0b1001101010110101 = .variant (.skipVXNotEqualVY 0xA 0xB 5) ∧
    decodeWord 0b1010000100100011 = .variant (.setI 0x123) ∧
    decodeWord 0b1011111100000000 = .variant (.jumpWithOffset 0xF00) ∧
    decodeWord 0b1100010110101010 = .variant (.random 5 0xAA) ∧
    decodeWord 0b1101000100101111 = .variant (.draw 1 2 0xF) ∧
    decodeWord 0b1110001110011110 = .variant (.skipIfKey 3) ∧
    decodeWord 0b1110001110100001 = .variant (.skipIfNotKey 3) := by decide

/-- Family F, L2-E22. -/
theorem test_decode_family_F :
    decodeWord 0b1111010000000111 = .variant (.getDT 4) ∧
    decodeWord 0b1111010000001010 = .variant (.getKey 4) ∧
    decodeWord 0b1111010000010101 = .variant (.setDT 4) ∧
    decodeWord 0b1111010000011000 = .variant (.setST 4) ∧
    decodeWord 0b1111010000011110 = .variant (.addI 4) ∧
    decodeWord 0b1111010000101001 = .variant (.fontChar 4) ∧
    decodeWord 0b1111010000110011 = .variant (.bcdConvert 4) ∧
    decodeWord 0b1111010001010101 = .variant (.storeRegs 4) ∧
    decodeWord 0b1111010001100101 = .variant (.loadRegs 4) := by decide

/-- The residue, L2-E1, E4, E5, E14, E21, E23, with the words next to a variant's. -/
theorem test_decode_residue :
    ([0x0000, 0x00E1, 0x0123, 0x8128, 0x8129, 0x812A, 0x812B, 0x812C, 0x812D, 0x812F, 0xE39F, 0xE300, 0xE3A0,
      0xF400, 0xF4FF, 0xF456, 0xF466, 0xF430] : List Word).all (fun w => decide (decodeWord w = .noneWord)) = true := by
  decide +kernel

/-- 30_encoding.md R70: a word takes two bytes; 20_memory.md R55: the first is the high one. -/
theorem test_decode_bytes :
    decodeBytes [0x12] = .error .truncated ∧ decodeBytes [0x12, 0x34, 0x56] = .ok (.variant (.jump 0x234), [0x56]) ∧
    encode (.jump 0x234) = [0x12, 0x34] := by decide

/-- The host's decode entry on the table's numbering: bits 7:0 are the second byte of the word. -/
theorem test_decodeTableWord :
    decodeTableWord 16 0x8124 = some (.addReg 1 2) ∧ decodeTableWord 16 0x8128 = none := by decide

/-! ## One step per instruction -/

/-- L2-D16. -/
theorem test_clear : nextIs (run 0x00E0 (regs [(0xF, 7)] (State.reset.setFb (setPixel blankFb 31 63 true))))
    (fun t => decide (t.fb = blankFb) && t.reg 0xF == 7 && decide (t.signal = some .clearScreen) && t.pc == 0x202) = true := by
  decide +kernel

/-- L2-J8. -/
theorem test_returnSub : nextIs (run 0x00EE { State.reset with stack := (State.reset.stack.set 0 0x202).set 1 0x30A, sp := 2 })
    (fun t => t.sp == 1 && t.pc == 0x30A && t.stack[1] == 0x30A) = true := by decide +kernel

/-- L2-J9. -/
theorem test_returnSub_underflow : nextIs (run 0x00EE State.reset)
    (haltedWith .stackUnderflow 0x200 (some 0x00EE) none) = true := by decide +kernel

/-- L2-J2. -/
theorem test_jump : nextIs (run 0x1FFF State.reset) (fun t => t.pc == 0xFFF) = true := by decide +kernel

/-- L2-J7. -/
theorem test_gotoSub : nextIs (run 0x2300 (State.reset.setPc 0xFFE))
    (fun t => t.stack[0] == 0x1000 && t.sp == 1 && t.pc == 0x300) = true := by decide +kernel

/-- L2-J6. -/
theorem test_gotoSub_overflow : nextIs (run 0x2400 { State.reset with sp := 16 })
    (fun t => haltedWith .stackOverflow 0x200 (some 0x2400) none t && t.pc == 0x200 && t.sp == 16) = true := by
  decide +kernel

/-- L2-S1 and L2-S2. -/
theorem test_skipEqual :
    nextIs (run 0x3342 (regs [(3, 0x42)] State.reset)) (fun t => t.pc == 0x204) = true ∧
    nextIs (run 0x3342 (regs [(3, 0x41)] State.reset)) (fun t => t.pc == 0x202) = true := by decide +kernel

/-- L2-S3 and L2-S4. -/
theorem test_skipNotEqual :
    nextIs (run 0x4342 (regs [(3, 0x41)] State.reset)) (fun t => t.pc == 0x204) = true ∧
    nextIs (run 0x4342 (regs [(3, 0x42)] State.reset)) (fun t => t.pc == 0x202) = true := by decide +kernel

/-- L2-S8 and L2-S6. -/
theorem test_skipVXEqualVY :
    nextIs (run 0x512F (regs [(1, 7), (2, 7)] State.reset)) (fun t => t.pc == 0x204) = true ∧
    nextIs (run 0x5120 (regs [(1, 7), (2, 8)] State.reset)) (fun t => t.pc == 0x202) = true := by decide +kernel

/-- L2-S9 and L2-S10. -/
theorem test_skipVXNotEqualVY :
    nextIs (run 0x9120 (regs [(1, 7), (2, 8)] State.reset)) (fun t => t.pc == 0x204) = true ∧
    nextIs (run 0x9330 State.reset) (fun t => t.pc == 0x202) = true := by decide +kernel

/-- L2-J11 and L2-J12. -/
theorem test_jumpWithOffset :
    nextIs (run 0xBFFF (regs [(0, 0xFF)] State.reset)) (fun t => t.pc == 0x10FE) = true ∧
    nextIs (run 0xBF00 (regs [(0xF, 0x20)] State.reset)) (fun t => t.pc == 0xF00) = true := by decide +kernel

/-- L2-I1. -/
theorem test_setVX : nextIs (run 0x6A2F State.reset) (fun t => t.reg 0xA == 0x2F) = true := by decide +kernel

/-- L2-I3 and L2-I6. -/
theorem test_addVX :
    nextIs (run 0x7220 (regs [(2, 0xF0)] State.reset)) (fun t => t.reg 2 == 0x10 && t.reg 0xF == 0) = true ∧
    nextIs (run 0x7F03 (regs [(0xF, 0xFE)] State.reset)) (fun t => t.reg 0xF == 1) = true := by decide +kernel

/-- L2-I7. -/
theorem test_setI : nextIs (run 0xA123 State.reset) (fun t => t.regI == 0x123) = true := by decide +kernel

/-- L2-I10 and L2-I13. -/
theorem test_addI :
    nextIs (run 0xF11E (regs [(1, 0x20), (0xF, 1)] (State.reset.setI 0x100))) (fun t => t.regI == 0x120 && t.reg 0xF == 1) = true ∧
    nextIs (run 0xFF1E (regs [(0xF, 5)] (State.reset.setI 0xFFE))) (fun t => t.regI == 0x1003 && t.reg 0xF == 1) = true := by
  decide +kernel

/-- L2-I12: the wrap to 0 sets no flag. -/
theorem test_addI_wrap :
    nextIs (run 0xF11E (regs [(1, 1)] (State.reset.setI 0xFFFF))) (fun t => t.regI == 0 && t.reg 0xF == 0) = true := by
  decide +kernel

/-- L2-I17 and L2-I18. -/
theorem test_fontChar :
    nextIs (run 0xF029 (regs [(0, 0x10)] State.reset)) (fun t => t.regI == 0xA0) = true ∧
    nextIs (run 0xF029 (regs [(0, 0xFF)] State.reset)) (fun t => t.regI == 0x54B) = true := by decide +kernel

/-- L2-I19, for the RAND answer the vector assumes. -/
theorem test_random :
    nextIs (randomOn 0xB6 3 0x0F State.reset) (fun t => t.reg 3 == 0x06) = true ∧
    nextIs (run 0xC300 State.reset) (fun t => t.randDraws == 1 && t.pc == 0x202) = true := by decide +kernel

/-- L2-K1 and L2-K4, for the KEY answer the vectors assume; `pc` has advanced to 0x202. -/
theorem test_skipIfKey :
    nextIs (skipIfKeyOn (some 0xA) 4 (regs [(4, 0x0A)] (State.reset.setPc 0x202))) (fun t => t.pc == 0x204) = true ∧
    nextIs (skipIfKeyOn (some 0xA) 4 (regs [(4, 0x1A)] (State.reset.setPc 0x202))) (fun t => t.pc == 0x202) = true := by
  decide +kernel

/-- L2-K7 and L2-K8. -/
theorem test_skipIfNotKey :
    nextIs (skipIfNotKeyOn none 4 (regs [(4, 0x0A)] (State.reset.setPc 0x202))) (fun t => t.pc == 0x204) = true ∧
    nextIs (skipIfNotKeyOn (some 0) 4 (regs [(4, 0x10)] (State.reset.setPc 0x202))) (fun t => t.pc == 0x204) = true := by
  decide +kernel

/-- L2-K9 and L2-K11. -/
theorem test_getKey :
    nextIs (getKeyOn none 3 (regs [(3, 0x55)] (State.reset.setPc 0x202))) (fun t => t.pc == 0x200 && t.reg 3 == 0x55) = true ∧
    nextIs (getKeyOn (some 0xC) 0xF (regs [(0xF, 1)] (State.reset.setPc 0x202))) (fun t => t.pc == 0x202 && t.reg 0xF == 0x0C) = true := by
  decide +kernel

/-- L2-D8: one pixel turned off, one turned on, and the collision flag. -/
theorem test_draw_collision :
    nextIs (run 0xD011 (bytes 0x300 [0xC0] ((State.reset.setI 0x300).setFb (setPixel blankFb 0 0 true))))
      (fun t => decide (t.fb = setPixel blankFb 0 1 true) && t.reg 0xF == 1 && decide (t.signal = some (.drawFrame t.fb))) = true := by
  decide +kernel

/-- L2-D14: the start column is the old VF; and P8's clipped corner. -/
theorem test_draw_start_and_clip :
    nextIs (run 0xDF11 (regs [(0xF, 5), (1, 2)] (bytes 0x300 [0x80] (State.reset.setI 0x300))))
      (fun t => decide (t.fb = setPixel blankFb 2 5 true) && t.reg 0xF == 0) = true ∧
    nextIs (run 0xD012 (regs [(0, 0x3C), (1, 0x1F)] (bytes 0x20C [0xFF, 0xFF] (State.reset.setI 0x20C))))
      (fun t => decide (t.fb = setPixel (setPixel (setPixel (setPixel blankFb 31 60 true) 31 61 true) 31 62 true) 31 63 true)
        && t.reg 0xF == 0) = true := by decide +kernel

/-- L2-A1 to L2-A4 and L2-A31. -/
theorem test_move_or_and_xor :
    nextIs (run 0x8120 (regs [(1, 0x12), (2, 0x33)] State.reset)) (fun t => t.reg 1 == 0x33) = true ∧
    nextIs (run 0x8F21 (regs [(0xF, 1), (2, 0x0F)] State.reset)) (fun t => t.reg 0xF == 0x0F) = true ∧
    nextIs (run 0x8122 (regs [(1, 0xF0), (2, 0x3C)] State.reset)) (fun t => t.reg 1 == 0x30) = true ∧
    nextIs (run 0x8123 (regs [(1, 0xF0), (2, 0x3C)] State.reset)) (fun t => t.reg 1 == 0xCC) = true := by decide +kernel

/-- L2-A24 and L2-A26. -/
theorem test_addReg :
    nextIs (run 0x8F24 (regs [(0xF, 0xFF), (2, 1)] State.reset)) (fun t => t.reg 0xF == 1) = true ∧
    nextIs (run 0x81F4 (regs [(1, 1), (0xF, 0xFF)] State.reset)) (fun t => t.reg 1 == 0 && t.reg 0xF == 1) = true := by
  decide +kernel

/-- L2-A10 and L2-A12. -/
theorem test_subVYFromVX :
    nextIs (run 0x8125 (regs [(1, 2), (2, 4)] State.reset)) (fun t => t.reg 1 == 0xFE && t.reg 0xF == 0) = true ∧
    nextIs (run 0x8125 (regs [(1, 7), (2, 7)] State.reset)) (fun t => t.reg 1 == 0 && t.reg 0xF == 1) = true := by
  decide +kernel

/-- L2-A15 and L2-A30. -/
theorem test_subVXFromVY :
    nextIs (run 0x8127 (regs [(1, 4), (2, 2)] State.reset)) (fun t => t.reg 1 == 0xFE && t.reg 0xF == 0) = true ∧
    nextIs (run 0x81F7 (regs [(1, 2), (0xF, 4)] State.reset)) (fun t => t.reg 1 == 2 && t.reg 0xF == 1) = true := by
  decide +kernel

/-- L2-A23 and L2-A28. -/
theorem test_shiftRight :
    nextIs (run 0x81F6 (regs [(1, 4), (0xF, 0xFF)] State.reset)) (fun t => t.reg 1 == 2 && t.reg 0xF == 0) = true ∧
    nextIs (run 0x8FF6 (regs [(0xF, 3)] State.reset)) (fun t => t.reg 0xF == 1) = true := by decide +kernel

/-- L2-A20 and L2-A29. -/
theorem test_shiftLeft :
    nextIs (run 0x812E (regs [(1, 0xC1)] State.reset)) (fun t => t.reg 1 == 0x82 && t.reg 0xF == 1) = true ∧
    nextIs (run 0x8FFE (regs [(0xF, 0x40)] State.reset)) (fun t => t.reg 0xF == 0) = true := by decide +kernel

/-- L2-M1 and L2-M6. -/
theorem test_bcdConvert :
    nextIs (run 0xF033 (regs [(0, 156)] (State.reset.setI 0x300)))
      (fun t => memRead t.mem 0x300 3 == [1, 5, 6] && t.regI == 0x300) = true ∧
    nextIs (run 0xF033 (regs [(0, 42)] (State.reset.setI 0xFFE)))
      (fun t => haltedWith .addressOutOfRange 0x200 (some 0xF033) (some 0x1000) t && memRead t.mem 0xFFE 2 == [0, 0]) = true := by
  decide +kernel

/-- L1-8 and L2-M10. -/
theorem test_storeRegs :
    nextIs (run 0xF355 (regs [(0, 0x11), (1, 0x22), (2, 0x33), (3, 0x44), (4, 0x55)] (State.reset.setI 0x400)))
      (fun t => memRead t.mem 0x400 5 == [0x11, 0x22, 0x33, 0x44, 0] && t.regI == 0x400) = true ∧
    nextIs (run 0xFF55 (State.reset.setI 0xFF1)) (haltedWith .addressOutOfRange 0x200 (some 0xFF55) (some 0x1000)) = true := by
  decide +kernel

/-- L1-8 and L2-M12. -/
theorem test_loadRegs :
    nextIs (run 0xF365 (regs [(4, 0x55)] (bytes 0x400 [0xAA, 0xBB, 0xCC, 0xDD, 0xEE] (State.reset.setI 0x400))))
      (fun t => t.reg 0 == 0xAA && t.reg 3 == 0xDD && t.reg 4 == 0x55 && t.regI == 0x400) = true ∧
    nextIs (run 0xF065 (State.reset.setI 0xFFFF)) (haltedWith .addressOutOfRange 0x200 (some 0xF065) (some 0xFFFF)) = true := by
  decide +kernel

/-- L2-M15, L2-M17 and L2-M20, before the cycle's timer check; `exec` is the instruction alone. -/
theorem test_timer_transfers :
    nextIs (exec (.getDT 5) (State.reset.setDelay 0x3C)) (fun t => t.reg 5 == 0x3C) = true ∧
    nextIs (exec (.setDT 5) (regs [(5, 0x3C)] State.reset)) (fun t => t.dt == 0x3C) = true ∧
    nextIs (exec (.setST 5) (regs [(5, 0x10)] State.reset)) (fun t => t.st == 0x10) = true := by decide +kernel

/-- L2-T1, L2-T2 and L2-T4, for the TICK answer the vectors assume. -/
theorem test_timer_tick :
    (timerTick true ((State.reset.setDelay 1).setSound 1)).dt = 0 ∧ (timerTick true ((State.reset.setDelay 1).setSound 1)).st = 0 ∧
    (timerTick true State.reset).dt = 0 ∧ (timerTick false (State.reset.setDelay 5)).dt = 5 := by decide +kernel

/-- L2-C2 and L2-C3: an odd `pc`, and the last word of memory. -/
theorem test_fetch_edges :
    nextIs (run 0x6007 (State.reset.setPc 0x201)) (fun t => t.reg 0 == 7 && t.pc == 0x203) = true ∧
    nextIs (step (State.reset.setPc 0xFFE)) (fun t => t.pc == 0x1000 && decide (t.signal = some .noSignal)) = true := by
  decide +kernel

/-- L2-C4, L2-C5 and L2-C6. -/
theorem test_fetch_errors :
    nextIs (step (State.reset.setPc 0xFFF)) (haltedWith .addressOutOfRange 0xFFF none (some 0x1000)) = true ∧
    nextIs (step (State.reset.setPc 0x1000)) (haltedWith .addressOutOfRange 0x1000 none (some 0x1000)) = true ∧
    nextIs (step (State.reset.setPc 0x10FE)) (haltedWith .addressOutOfRange 0x10FE none (some 0x10FE)) = true := by
  decide +kernel

/-- L1-2: the bytes of the glyphs 0 and F in the default FONT. -/
theorem test_reset_font :
    memRead State.reset.mem 0x50 5 = [0xF0, 0x90, 0x90, 0x90, 0xF0] ∧
    memRead State.reset.mem 0x9B 5 = [0xF0, 0x80, 0xF0, 0x80, 0x80] := by decide +kernel

/-- 70_reset_and_hazards.md R281: the FONT that is given is the one in memory, from 0x050 to 0x09F. -/
theorem test_boot_with_another_font :
    (match boot (Vector.replicate 80 0xAA) [] with
      | .started s => memRead s.mem 0x4F 2 == [0, 0xAA] && memRead s.mem 0x9F 2 == [0xAA, 0]
      | .rejected _ _ => false) = true := by decide +kernel

/-- The ROM vector of 3 bytes: 60 05 12 at 0x200 to 0x202, and 0 at 0x203. -/
theorem test_boot :
    (match boot defaultFont [0x60, 0x05, 0x12] with
      | .started s => memRead s.mem 0x200 4 == [0x60, 0x05, 0x12, 0x00] && s.pc == 0x200
      | .rejected _ _ => false) = true := by decide +kernel

/-! ## Witnesses: for every statement with hypotheses, a concrete input that meets them together, at the edges of each
clause's range -/

/-- A Running state whose next word is `StoreRegs V1`, with the block at the word after it (program P6, cycle 4). -/
def selfModifying : State :=
  bytes 0x206 [0xF1, 0x55] (regs [(0, 0x12), (1, 0x0A)] ((State.reset.setI 0x208).setPc 0x206))

/-- A halted state. -/
def halted : State := State.reset.haltAt ⟨.stackUnderflow, 0x200, some 0x00EE, none⟩

/-- A Running state with a full call stack. -/
def fullStack : State := { State.reset with sp := 16 }

/-- The instruction completes in the Running state `s` and ends in an error in the Running state `s'`: both cases of
`SameButOrHalts`. -/
def completesAndHalts (i : Instr) (s s' : State) : Prop :=
  s.status = .running ∧ s'.status = .running ∧ (∃ t, exec i s = .next t ∧ t.status = .running) ∧
  ∃ t, exec i s' = .next t ∧ ∃ err, t.status = .halted err

theorem blockFits_iff (s : State) (n : Nat) : BlockFits s n ↔ badAddress s.regI n = none := (badAddress_eq_none _ _).symm

theorem test_witness_DecodedWordEncodesBack : decodeWord 0x812F = .noneWord ∧ decodeWord 0x812E = .variant (.shiftLeft 1 2) := by
  decide

/-- A word on a row, and a word on none. -/
theorem test_witness_DecoderFollowsTheDecodeMap :
    (opcodeRows.any fun r => (0x812E : Word) &&& r.mask == r.pattern) = true ∧
    (opcodeRows.all fun r => (0x812F : Word) &&& r.mask != r.pattern) = true := by decide +kernel

/-- The sub-cases of the families 0, 8, E and F, at the values where they meet. -/
theorem test_witness_FamiliesSelectTheirVariants :
    (fieldOp 0x00E0 = 0x0 ∧ fieldOp 0x00E1 = 0x0 ∧ fieldOp 0x0FFF = 0x0) ∧
    (fieldOp 0x8127 = 0x8 ∧ fieldN 0x8127 = 0x7) ∧ (fieldOp 0x8128 = 0x8 ∧ fieldN 0x8128 = 0x8) ∧
    (fieldOp 0x812D = 0x8 ∧ fieldN 0x812D = 0xD) ∧ (fieldOp 0x812E = 0x8 ∧ fieldN 0x812E = 0xE) ∧
    (fieldOp 0x812F = 0x8 ∧ fieldN 0x812F = 0xF) ∧
    (fieldOp 0xE39E = 0xE ∧ fieldKK 0xE39E = 0x9E) ∧ (fieldOp 0xE39F = 0xE ∧ (fieldKK 0xE39F).toNat ∉ [0x9E, 0xA1]) ∧
    (fieldOp 0xE3A1 = 0xE ∧ fieldKK 0xE3A1 = 0xA1) ∧
    (fieldOp 0xF465 = 0xF ∧ fieldKK 0xF465 = 0x65) ∧
    (fieldOp 0xF466 = 0xF ∧ (fieldKK 0xF466).toNat ∉ [0x07, 0x0A, 0x15, 0x18, 0x1E, 0x29, 0x33, 0x55, 0x65]) := by
  decide

/-- One word of each family with one variant. -/
theorem test_witness_FamiliesWithOneVariant :
    fieldOp 0x1FFF = 0x1 ∧ fieldOp 0x2000 = 0x2 ∧ fieldOp 0x3FFF = 0x3 ∧ fieldOp 0x4000 = 0x4 ∧ fieldOp 0x512F = 0x5 ∧
    fieldOp 0x6000 = 0x6 ∧ fieldOp 0x7FFF = 0x7 ∧ fieldOp 0x9AB5 = 0x9 ∧ fieldOp 0xA000 = 0xA ∧ fieldOp 0xBFFF = 0xB ∧
    fieldOp 0xC000 = 0xC ∧ fieldOp 0xDFFF = 0xD := by decide

theorem test_witness_NoneResidue : IsResidueWord 0x0FFF ∧ IsResidueWord 0x812F ∧ IsResidueWord 0xE3A0 ∧ IsResidueWord 0xF466 := by
  refine ⟨.inl ?_, .inr (.inl ?_), .inr (.inr (.inl ?_)), .inr (.inr (.inr ?_))⟩ <;> decide

/-- The last two bytes of memory, and the byte below them. -/
theorem test_witness_BlockReadGivesTheBlockWritten :
    Memory.wf State.reset.mem ∧ 0xFFE + ([1, 2] : List Byte).length ≤ 4096 ∧ ¬(0xFFE ≤ 0xFFD ∧ 0xFFD < 0xFFE + 2) := by decide

theorem test_witness_StoreIsSeenByTheNextFetch :
    Memory.wf selfModifying.mem ∧ Fetches selfModifying (encodeWord (.storeRegs 1)) ∧
    BlockFits selfModifying ((1 : RegIdx).toNat + 1) ∧ selfModifying.pc.toNat + 2 = selfModifying.regI.toNat + 0 ∧
    0 < (1 : RegIdx).toNat :=
  ⟨memWrite_wf (by decide) _ _, ⟨by decide +kernel, by decide +kernel, by decide +kernel⟩,
    (blockFits_iff _ _).2 (by decide +kernel), by decide +kernel, by decide⟩

/-- The first and the last byte of FONT, the bytes on both sides of it, and the last byte of memory. -/
theorem test_witness_ResetMemoryHoldsFontAndZeros :
    (0 < 80 ∧ 79 < 80) ∧
    (0x4F < 4096 ∧ (0x4F < 0x50 ∨ 0x9F < 0x4F)) ∧ (0xA0 < 4096 ∧ (0xA0 < 0x50 ∨ 0x9F < 0xA0)) ∧
    (0xFFF < 4096 ∧ (0xFFF < 0x50 ∨ 0x9F < 0xFFF)) := by decide

theorem test_witness_ResetComponentsHoldTheirValues : ∃ s, s = State.resetWith (Vector.replicate 80 0xAA) := ⟨_, rfl⟩

theorem test_witness_FirstCycleFetchesAtProgramStart : ∃ s, boot defaultFont [0x12, 0x00] = .started s := ⟨_, rfl⟩

/-- ROMs of 3584 and 3585 bytes; the last byte of the longest ROM; the bytes on both sides of a ROM. -/
theorem test_witness_BootLoadsTheRomOrRejectsIt :
    (List.replicate 3584 (0 : Byte)).length ≤ 3584 ∧ 3584 < (List.replicate 3585 (0 : Byte)).length ∧
    3583 < (List.replicate 3584 (0 : Byte)).length ∧
    (0x1FF < 0x200 ∨ 0x200 + 2 ≤ 0x1FF) ∧ (0x202 < 0x200 ∨ 0x200 + 2 ≤ 0x202) := by
  simp only [List.length_replicate]; decide

/-- Once with an instruction that completes, once with one that halts, once at the last word of memory. -/
theorem test_witness_StepRunsTheDecodedInstruction :
    (∀ w i, (w, i) ∈ ([(0x00E0, .clear), (0x00EE, .returnSub)] : List (Nat × Instr)) →
      (State.reset.withFetchWord 16 w).status = .running ∧ (State.reset.withFetchWord 16 w).pc.toNat ≤ 0xFFE ∧
      decodeBytes (memRead (State.reset.withFetchWord 16 w).mem 0x200 2) = .ok (.variant i, [])) ∧
    ((State.reset.setPc 0xFFE).withFetchWord 16 0x00E0).pc.toNat ≤ 0xFFE ∧
    decodeBytes (memRead ((State.reset.setPc 0xFFE).withFetchWord 16 0x00E0).mem 0xFFE 2) = .ok (.variant .clear, []) := by
  refine ⟨fun w i h => ?_, by decide +kernel, by decide +kernel⟩
  simp only [List.mem_cons, Prod.mk.injEq, List.not_mem_nil, or_false] at h
  rcases h with ⟨rfl, rfl⟩ | ⟨rfl, rfl⟩ <;> exact ⟨rfl, by decide +kernel, by decide +kernel⟩

theorem test_witness_NoneWordIsANoOp : Fetches State.reset 0x0000 ∧ IsResidueWord 0x0000 :=
  ⟨⟨rfl, by decide +kernel, by decide +kernel⟩, .inl (by decide)⟩

theorem test_witness_FetchOutsideMemoryHalts :
    ((State.reset.setPc 0xFFF).status = .running ∧ 0xFFE < (State.reset.setPc 0xFFF).pc.toNat) ∧
    ((State.reset.setPc 0x1000).status = .running ∧ 0xFFE < (State.reset.setPc 0x1000).pc.toNat) := by decide

theorem test_witness_HaltedCoreTakesNoStep : halted.status = .halted ⟨.stackUnderflow, 0x200, some 0x00EE, none⟩ := rfl

/-- A step that answers a next state which is halted: a failed fetch, a full stack, an empty stack, and the four block
instructions. -/
theorem test_witness_ErrorsArePrecise :
    (∃ t, step (State.reset.setPc 0xFFF) = .next t ∧ ∃ err, t.status = .halted err) ∧
    (∀ w ∈ ([0x00EE, 0xD001, 0xF033, 0xF055, 0xF065] : List Nat),
      ∃ t, step ((State.reset.setI 0x1000).withFetchWord 16 w) = .next t ∧ ∃ err, t.status = .halted err) ∧
    ∃ t, step (fullStack.withFetchWord 16 0x2400) = .next t ∧ ∃ err, t.status = .halted err := by
  refine ⟨⟨_, rfl, _, rfl⟩, fun w h => ?_, ⟨_, rfl, _, rfl⟩⟩
  simp only [List.mem_cons, List.not_mem_nil, or_false] at h
  rcases h with rfl | rfl | rfl | rfl | rfl <;> exact ⟨_, rfl, _, rfl⟩

/-- The invariant holds at reset, and a step from there answers a next state. -/
theorem test_witness_EveryStepKeepsTheInvariant : Inv State.reset ∧ ∃ t, step State.reset = .next t :=
  ⟨⟨by decide, by decide, by decide, fun _ h => by cases h⟩, ⟨_, rfl⟩⟩

/-- A step that completes with a word of each sort: None, an instruction, SetDT and SetST, Clear and Draw. -/
theorem test_witness_CompletedSteps :
    ∀ w ∈ ([0x0000, 0x1200, 0xF015, 0xF018, 0x00E0, 0xD010] : List Nat),
      ∃ t, step (State.reset.withFetchWord 16 w) = .next t ∧ t.status = .running := by
  intro w h
  simp only [List.mem_cons, List.not_mem_nil, or_false] at h
  rcases h with rfl | rfl | rfl | rfl | rfl | rfl <;> exact ⟨_, rfl, rfl⟩

theorem test_witness_PcAfterEachInstruction : ∃ t, step (State.reset.withFetchWord 16 0x1FFF) = .next t ∧ t.status = .running ∧
    decodeWord (memReadWord (State.reset.withFetchWord 16 0x1FFF).mem 0x200) = .variant (.jump 0xFFF) :=
  ⟨_, rfl, rfl, by decide +kernel⟩

/-- Both sides of the check: the last byte inside, the first outside, and a base outside. -/
theorem test_witness_LowestAddressOutsideMemory :
    badAddress 0xFFF 1 = none ∧ badAddress 0xFFF 2 = some 0x1000 ∧ badAddress 0x1000 1 = some 0x1000 ∧
    badAddress 0xFFFF 1 = some 0xFFFF ∧ badAddress 0xFFFF 0 = none := by decide

theorem test_witness_StackEdges :
    ({ State.reset with sp := 15 } : State).sp.val < 16 ∧ fullStack.sp.val = 16 ∧
    fullStack.sp.val = (15 : Fin 16).val + 1 ∧ ({ State.reset with sp := 1 } : State).sp.val = (0 : Fin 16).val + 1 ∧
    State.reset.sp.val = 0 := by decide

/-- Blocks that fit: none for n = 0 at any I, 15 bytes up to 0xFFF, 3 bytes up to 0xFFF, 1 and 16 registers. -/
theorem test_witness_BlockFits :
    BlockFits (State.reset.setI 0xFFFF) (0 : Nibble).toNat ∧ BlockFits (State.reset.setI 0xFF1) (0xF : Nibble).toNat ∧
    BlockFits (State.reset.setI 0xFFD) 3 ∧ BlockFits (State.reset.setI 0xFFF) ((0 : RegIdx).toNat + 1) ∧
    BlockFits (State.reset.setI 0xFF0) ((0xF : RegIdx).toNat + 1) ∧ Memory.wf (State.reset.setI 0xFF0).mem := by
  simp only [blockFits_iff]; decide

/-- Blocks that do not fit, by one byte. -/
theorem test_witness_BlockOutsideMemory :
    ¬BlockFits (State.reset.setI 0xFF2) (0xF : Nibble).toNat ∧ ¬BlockFits (State.reset.setI 0xFFE) 3 ∧
    ¬BlockFits (State.reset.setI 0x1000) ((0 : RegIdx).toNat + 1) ∧
    ¬BlockFits (State.reset.setI 0xFF1) ((0xF : RegIdx).toNat + 1) := by
  simp only [blockFits_iff]; decide

/-- For Draw: a screen and a sprite with a collision, a set bit that collides, a set bit that does not, a clear bit. -/
theorem test_witness_DrawCollision :
    BlockFits (bytes 0x300 [0xC0] ((State.reset.setI 0x300).setFb (setPixel blankFb 0 0 true))) (1 : Nibble).toNat ∧
    (fun s : State => spriteBitAt s 0 0 1 0 0 && pixel s.fb 0 0 && spriteBitAt s 0 0 1 0 1 && !pixel s.fb 0 1 &&
      !spriteBitAt s 0 0 1 0 2) (bytes 0x300 [0xC0] ((State.reset.setI 0x300).setFb (setPixel blankFb 0 0 true))) = true := by
  refine ⟨(blockFits_iff _ _).2 ?_, ?_⟩ <;> decide +kernel

/-- The frames of the register instructions: one instruction of each clause answers a next state. -/
theorem test_witness_RegisterInstructionsFrame :
    (∃ t, exec (.setVX 0 1) State.reset = .next t) ∧ (∃ t, exec (.random 0 1) State.reset = .next t) ∧
    ∃ t, exec (.addReg 0xF 1) State.reset = .next t := ⟨⟨_, rfl⟩, ⟨_, rfl⟩, ⟨_, rfl⟩⟩

theorem test_witness_ControlAndKeyInstructionsFrame :
    (∃ t, exec (.jump 1) State.reset = .next t) ∧ (∃ t, exec (.skipIfKey 0) State.reset = .next t) ∧
    (∃ t, exec (.getKey 0) State.reset = .next t) ∧ completesAndHalts (.gotoSub 1) State.reset fullStack ∧
    completesAndHalts .returnSub fullStack State.reset :=
  ⟨⟨_, rfl⟩, ⟨_, rfl⟩, ⟨_, rfl⟩, ⟨rfl, rfl, ⟨_, rfl, rfl⟩, _, rfl, _, rfl⟩, ⟨rfl, rfl, ⟨_, rfl, rfl⟩, _, rfl, _, rfl⟩⟩

theorem test_witness_IndexAndTimerInstructionsFrame :
    (∃ t, exec (.setI 1) State.reset = .next t) ∧ (∃ t, exec (.fontChar 0) State.reset = .next t) ∧
    (∃ t, exec (.addI 0) State.reset = .next t) ∧ (∃ t, exec (.setDT 0) State.reset = .next t) ∧
    ∃ t, exec (.setST 0) State.reset = .next t := ⟨⟨_, rfl⟩, ⟨_, rfl⟩, ⟨_, rfl⟩, ⟨_, rfl⟩, ⟨_, rfl⟩⟩

theorem test_witness_MemoryBlockInstructionsFrame :
    completesAndHalts (.bcdConvert 0) (State.reset.setI 0xFFD) (State.reset.setI 0xFFE) ∧
    completesAndHalts (.storeRegs 0xF) (State.reset.setI 0xFF0) (State.reset.setI 0xFF1) ∧
    completesAndHalts (.loadRegs 0xF) (State.reset.setI 0xFF0) (State.reset.setI 0xFF1) :=
  ⟨⟨rfl, rfl, ⟨_, rfl, rfl⟩, _, rfl, _, rfl⟩, ⟨rfl, rfl, ⟨_, rfl, rfl⟩, _, rfl, _, rfl⟩, ⟨rfl, rfl, ⟨_, rfl, rfl⟩, _, rfl, _, rfl⟩⟩

theorem test_witness_DisplayInstructionsFrame :
    (∃ t, exec .clear State.reset = .next t) ∧
    completesAndHalts (.draw 0 0 1) (State.reset.setI 0xFFF) (State.reset.setI 0x1000) :=
  ⟨⟨_, rfl⟩, rfl, rfl, ⟨_, rfl, rfl⟩, _, rfl, _, rfl⟩

/-- Steps that change each of the six pieces. -/
theorem test_witness_PieceChanges :
    (∃ t, step ((State.reset.setI 0x050).withFetchWord 16 0xF055) = .next t ∧
      ¬Same ((State.reset.setI 0x050).withFetchWord 16 0xF055) t .mem) ∧
    (∃ t, step ((State.reset.setI 0x050).withFetchWord 16 0xD001) = .next t ∧
      ¬Same ((State.reset.setI 0x050).withFetchWord 16 0xD001) t .screen) ∧
    (∃ t, step (State.reset.withFetchWord 16 0x2400) = .next t ∧ ¬Same (State.reset.withFetchWord 16 0x2400) t .stack) ∧
    (∃ t, step (State.reset.withFetchWord 16 0xA123) = .next t ∧ ¬Same (State.reset.withFetchWord 16 0xA123) t .index) ∧
    (∃ t, step (State.reset.withFetchWord 16 0xE09E) = .next t ∧ ¬Same (State.reset.withFetchWord 16 0xE09E) t .keys) ∧
    ∃ t, step (State.reset.withFetchWord 16 0xC0FF) = .next t ∧ ¬Same (State.reset.withFetchWord 16 0xC0FF) t .rand := by
  refine ⟨⟨_, rfl, fun h => absurd (h 0x50) ?_⟩, ⟨_, rfl, fun h => absurd (h 0 0) ?_⟩, ⟨_, rfl, fun h => absurd h.1 ?_⟩,
    ⟨_, rfl, fun h => ?_⟩, ⟨_, rfl, fun h => ?_⟩, ⟨_, rfl, fun h => ?_⟩⟩
  · decide +kernel
  · decide +kernel
  · decide +kernel
  · exact absurd (show (0x123 : Word) = 0 from h) (by decide)
  · exact absurd (show (1 : Nat) = 0 from h) (by decide)
  · exact absurd (show (1 : Nat) = 0 from h) (by decide)

end Sys2Proof.Tests
end

section
/-! Each family of the decode algorithm, by its selector (30_encoding.md R75 to R79, R83). -/

namespace Sys2Proof

section Families

variable {w : Word}

theorem decodeWord_of_op0 (h : fieldOp w = 0x0) : decodeWord w = decodeFamily0 w := by
  rw [decodeWord, h]; rfl

theorem decodeWord_of_op1 (h : fieldOp w = 0x1) : decodeWord w = .variant (.jump (fieldNNN w)) := by
  rw [decodeWord, h]; rfl

theorem decodeWord_of_op2 (h : fieldOp w = 0x2) : decodeWord w = .variant (.gotoSub (fieldNNN w)) := by
  rw [decodeWord, h]; rfl

theorem decodeWord_of_op3 (h : fieldOp w = 0x3) :
    decodeWord w = .variant (.skipEqual (fieldX w) (fieldKK w)) := by
  rw [decodeWord, h]; rfl

theorem decodeWord_of_op4 (h : fieldOp w = 0x4) :
    decodeWord w = .variant (.skipNotEqual (fieldX w) (fieldKK w)) := by
  rw [decodeWord, h]; rfl

theorem decodeWord_of_op5 (h : fieldOp w = 0x5) :
    decodeWord w = .variant (.skipVXEqualVY (fieldX w) (fieldY w) (fieldN w)) := by
  rw [decodeWord, h]; rfl

theorem decodeWord_of_op6 (h : fieldOp w = 0x6) : decodeWord w = .variant (.setVX (fieldX w) (fieldKK w)) := by
  rw [decodeWord, h]; rfl

theorem decodeWord_of_op7 (h : fieldOp w = 0x7) : decodeWord w = .variant (.addVX (fieldX w) (fieldKK w)) := by
  rw [decodeWord, h]; rfl

/-- Family 8, at the value of its selector `n`. -/
theorem decodeWord_of_op8 {n : Nibble} (h : fieldOp w = 0x8) (hn : fieldN w = n) :
    decodeWord w = decodeFamily8 (fieldX w) (fieldY w) n := by
  rw [decodeWord, h, ← hn]; rfl

theorem decodeWord_of_op9 (h : fieldOp w = 0x9) :
    decodeWord w = .variant (.skipVXNotEqualVY (fieldX w) (fieldY w) (fieldN w)) := by
  rw [decodeWord, h]; rfl

theorem decodeWord_of_opA (h : fieldOp w = 0xA) : decodeWord w = .variant (.setI (fieldNNN w)) := by
  rw [decodeWord, h]; rfl

theorem decodeWord_of_opB (h : fieldOp w = 0xB) : decodeWord w = .variant (.jumpWithOffset (fieldNNN w)) := by
  rw [decodeWord, h]; rfl

theorem decodeWord_of_opC (h : fieldOp w = 0xC) : decodeWord w = .variant (.random (fieldX w) (fieldKK w)) := by
  rw [decodeWord, h]; rfl

theorem decodeWord_of_opD (h : fieldOp w = 0xD) :
    decodeWord w = .variant (.draw (fieldX w) (fieldY w) (fieldN w)) := by
  rw [decodeWord, h]; rfl

/-- Family E, at the value of its selector `kk`. -/
theorem decodeWord_of_opE {kk : Byte} (h : fieldOp w = 0xE) (hk : fieldKK w = kk) :
    decodeWord w = decodeFamilyE (fieldX w) kk := by
  rw [decodeWord, h, ← hk]; rfl

/-- Family F, at the value of its selector `kk`. -/
theorem decodeWord_of_opF {kk : Byte} (h : fieldOp w = 0xF) (hk : fieldKK w = kk) :
    decodeWord w = decodeFamilyF (fieldX w) kk := by
  rw [decodeWord, h, ← hk]; rfl

end Families

/-! In the four families with sub-cases, a word that no sub-case selects decodes to None (30_encoding.md R80). -/

theorem decodeFamily0_eq_noneWord {w : Word} (h : w ≠ 0x00E0) (h' : w ≠ 0x00EE) : decodeFamily0 w = .noneWord :=
  (if_neg h).trans (if_neg h')

theorem decodeFamily8_eq_noneWord (x y : RegIdx) {n : Nibble} (h : n.toNat ∈ [0x8, 0x9, 0xA, 0xB, 0xC, 0xD, 0xF]) :
    decodeFamily8 x y n = .noneWord := by
  simp only [List.mem_cons, List.not_mem_nil, or_false] at h
  rw [decodeFamily8]
  obtain h | h | h | h | h | h | h := h <;> rw [h] <;> rfl

theorem decodeFamilyE_eq_noneWord (x : RegIdx) {kk : Byte} (h : kk.toNat ∉ [0x9E, 0xA1]) :
    decodeFamilyE x kk = .noneWord := by
  rw [decodeFamilyE, if_neg, if_neg] <;> rintro rfl <;> exact h (by decide)

theorem decodeFamilyF_eq_noneWord (x : RegIdx) {kk : Byte}
    (h : kk.toNat ∉ [0x07, 0x0A, 0x15, 0x18, 0x1E, 0x29, 0x33, 0x55, 0x65]) :
    decodeFamilyF x kk = .noneWord := by
  rw [decodeFamilyF, if_neg, if_neg, if_neg, if_neg, if_neg, if_neg, if_neg, if_neg, if_neg] <;>
    rintro rfl <;> exact h (by decide)

/-- The mask 0xFFFF keeps the whole word. -/
theorem and_wholeWord (w : Word) : w &&& 0xFFFF#16 = w := BitVec.and_allOnes

/-! The overlaps of 30_encoding.md R71. -/

theorem fieldKK_eq_append (w : Word) : fieldKK w = fieldY w ++ fieldN w := by
  apply BitVec.eq_of_toNat_eq
  rw [append_toNat, fieldKK_toNat, fieldY_toNat, fieldN_toNat]
  omega

theorem fieldNNN_eq_append (w : Word) : fieldNNN w = fieldX w ++ fieldY w ++ fieldN w := by
  apply BitVec.eq_of_toNat_eq
  rw [append_toNat, append_toNat, fieldNNN_toNat, fieldX_toNat, fieldY_toNat, fieldN_toNat]
  omega

end Sys2Proof
end

section
/-! The decode map of 30_encoding.md R74: its rows decode as they say, no two of them meet, and the residue of R80 is
what they leave. -/

namespace Sys2Proof.Machine

/-! A row decodes as it says when the fields that its mask keeps select its variant. -/

theorem decodesAs_maskA {p : Word} {make : Word → Instr} (hp : fieldNNN p = 0)
    (h : ∀ w, fieldOp w = fieldOp p → decodeWord w = .variant (make w)) : DecodesAs p 0xF000 make :=
  fun w hw => h w ((and_maskA_eq w p hp).1 hw)

theorem decodesAs_maskXS {p : Word} {make : Word → Instr} (hp : fieldX p = 0)
    (h : ∀ w, fieldOp w = fieldOp p → fieldKK w = fieldKK p → decodeWord w = .variant (make w)) :
    DecodesAs p 0xF0FF make := fun w hw =>
  have ⟨ho, hk⟩ := (and_maskXS_eq w p hp).1 hw
  h w ho hk

theorem decodesAs_maskXYS {p : Word} {make : Word → Instr} (hp : fieldX p = 0) (hp' : fieldY p = 0)
    (h : ∀ w, fieldOp w = fieldOp p → fieldN w = fieldN p → decodeWord w = .variant (make w)) :
    DecodesAs p 0xF00F make := fun w hw =>
  have ⟨ho, hn⟩ := (and_maskXYS_eq w p hp hp').1 hw
  h w ho hn

theorem decodesAs_wholeWord {p : Word} {i : Instr} (h : decodeWord p = .variant i) :
    DecodesAs p 0xFFFF fun _ => i := fun w hw => by
  rw [← (and_wholeWord w).symm.trans hw] at h
  exact h

/-- Every row of the decode map decodes as it says: its family's equation, at the selector of its pattern. -/
theorem decodesAs_of_mem_opcodeRows : ∀ r ∈ opcodeRows, DecodesAs r.pattern r.mask r.make := by
  simp only [opcodeRows, List.cons_append, List.nil_append, List.forall_mem_cons]
  refine ⟨decodesAs_wholeWord rfl, decodesAs_wholeWord rfl,
    decodesAs_maskA rfl fun _ => decodeWord_of_op1, decodesAs_maskA rfl fun _ => decodeWord_of_op2,
    decodesAs_maskA rfl fun _ => decodeWord_of_op3, decodesAs_maskA rfl fun _ => decodeWord_of_op4,
    decodesAs_maskA rfl fun _ => decodeWord_of_op5, decodesAs_maskA rfl fun _ => decodeWord_of_op6,
    decodesAs_maskA rfl fun _ => decodeWord_of_op7,
    decodesAs_maskXYS rfl rfl fun _ => decodeWord_of_op8, decodesAs_maskXYS rfl rfl fun _ => decodeWord_of_op8,
    decodesAs_maskXYS rfl rfl fun _ => decodeWord_of_op8, decodesAs_maskXYS rfl rfl fun _ => decodeWord_of_op8,
    decodesAs_maskXYS rfl rfl fun _ => decodeWord_of_op8, decodesAs_maskXYS rfl rfl fun _ => decodeWord_of_op8,
    decodesAs_maskXYS rfl rfl fun _ => decodeWord_of_op8, decodesAs_maskXYS rfl rfl fun _ => decodeWord_of_op8,
    decodesAs_maskXYS rfl rfl fun _ => decodeWord_of_op8,
    decodesAs_maskA rfl fun _ => decodeWord_of_op9, decodesAs_maskA rfl fun _ => decodeWord_of_opA,
    decodesAs_maskA rfl fun _ => decodeWord_of_opB, decodesAs_maskA rfl fun _ => decodeWord_of_opC,
    decodesAs_maskA rfl fun _ => decodeWord_of_opD,
    decodesAs_maskXS rfl fun _ => decodeWord_of_opE, decodesAs_maskXS rfl fun _ => decodeWord_of_opE,
    decodesAs_maskXS rfl fun _ => decodeWord_of_opF, decodesAs_maskXS rfl fun _ => decodeWord_of_opF,
    decodesAs_maskXS rfl fun _ => decodeWord_of_opF, decodesAs_maskXS rfl fun _ => decodeWord_of_opF,
    decodesAs_maskXS rfl fun _ => decodeWord_of_opF, decodesAs_maskXS rfl fun _ => decodeWord_of_opF,
    decodesAs_maskXS rfl fun _ => decodeWord_of_opF, decodesAs_maskXS rfl fun _ => decodeWord_of_opF,
    decodesAs_maskXS rfl fun _ => decodeWord_of_opF, fun _ h => nomatch h⟩

/-- Two rows clash: on the bits that both masks keep, their patterns differ. -/
theorem opcodeRows_pairwise_clash :
    opcodeRows.Pairwise fun r q => r.pattern &&& q.mask ≠ q.pattern &&& r.mask := by decide

theorem opcodeRows_pairwise_disjoint :
    opcodeRows.Pairwise fun r q => ∀ w : Word, ¬(w &&& r.mask = r.pattern ∧ w &&& q.mask = q.pattern) := by
  refine opcodeRows_pairwise_clash.imp fun {r q} hclash w ⟨hr, hq⟩ => hclash ?_
  rw [← hr, ← hq, BitVec.and_assoc, BitVec.and_assoc, BitVec.and_comm r.mask]

theorem fieldOp_eq_zero_iff (w : Word) : fieldOp w = 0 ↔ w.toNat ≤ 0x0FFF := by
  rw [← BitVec.toNat_inj, fieldOp_toNat]
  change w.toNat / 4096 = 0 ↔ _
  omega

theorem decodeWord_of_isResidueWord {w : Word} (h : IsResidueWord w) : decodeWord w = .noneWord := by
  obtain ⟨hw, hE0, hEE⟩ | ⟨ho, hn⟩ | ⟨ho, hk⟩ | ⟨ho, hk⟩ := h
  · exact (decodeWord_of_op0 ((fieldOp_eq_zero_iff w).2 hw)).trans (decodeFamily0_eq_noneWord hE0 hEE)
  · exact (decodeWord_of_op8 ho rfl).trans (decodeFamily8_eq_noneWord _ _ hn)
  · exact (decodeWord_of_opE ho rfl).trans (decodeFamilyE_eq_noneWord _ hk)
  · exact (decodeWord_of_opF ho rfl).trans (decodeFamilyF_eq_noneWord _ hk)

/-! The decode map has a row for every selector that R80 does not list. -/

/-- The decode map has a row of this match and mask. -/
abbrev HasRow (p m : Word) : Prop := ∃ r ∈ opcodeRows, r.pattern = p ∧ r.mask = m

theorem hasRow_op0 : HasRow 0x00E0 0xFFFF#16 ∧ HasRow 0x00EE 0xFFFF#16 := by decide +kernel

theorem hasRow_op8 : ∀ n : Nibble, n.toNat ∉ [0x8, 0x9, 0xA, 0xB, 0xC, 0xD, 0xF] →
    HasRow ((0x8 : Nibble) ++ 0#4 ++ 0#4 ++ n) 0xF00F#16 := by decide +kernel

theorem hasRow_opE : ∀ kk : Byte, kk.toNat ∈ [0x9E, 0xA1] → HasRow ((0xE : Nibble) ++ 0#4 ++ kk) 0xF0FF#16 := by
  decide +kernel

theorem hasRow_opF : ∀ kk : Byte, kk.toNat ∈ [0x07, 0x0A, 0x15, 0x18, 0x1E, 0x29, 0x33, 0x55, 0x65] →
    HasRow ((0xF : Nibble) ++ 0#4 ++ kk) 0xF0FF#16 := by decide +kernel

theorem hasRow_op : ∀ o : Nibble, o ∉ [0x0, 0x8, 0xE, 0xF] → HasRow (o ++ 0#12) 0xF000#16 := by decide +kernel

theorem HasRow.exists_row {p m w : Word} (h : HasRow p m) (hw : w &&& m = p) :
    ∃ r ∈ opcodeRows, w &&& r.mask = r.pattern := by
  obtain ⟨r, hr, rfl, rfl⟩ := h
  exact ⟨r, hr, hw⟩

/-- A word outside the residue of R80 matches a row. -/
theorem exists_row_of_not_isResidueWord {w : Word} (h : ¬IsResidueWord w) :
    ∃ r ∈ opcodeRows, w &&& r.mask = r.pattern := by
  simp only [IsResidueWord, not_or, not_and, not_not] at h
  obtain ⟨h0, h8, hE, hF⟩ := h
  by_cases ho : fieldOp w ∈ [0x0, 0x8, 0xE, 0xF]
  · simp only [List.mem_cons, List.not_mem_nil, or_false] at ho
    obtain ho | ho | ho | ho := ho
    · by_cases hw : w = 0x00E0
      · exact hasRow_op0.1.exists_row ((and_wholeWord w).trans hw)
      · exact hasRow_op0.2.exists_row ((and_wholeWord w).trans (h0 ((fieldOp_eq_zero_iff w).1 ho) hw))
    · exact (hasRow_op8 _ (h8 ho)).exists_row (by rw [and_maskXYS, ho])
    · exact (hasRow_opE _ (hE ho)).exists_row (by rw [and_maskXS, ho])
    · exact (hasRow_opF _ (hF ho)).exists_row (by rw [and_maskXS, ho])
  · exact (hasRow_op _ ho).exists_row (and_maskA w)

/-- A word that matches no row decodes to None. -/
theorem decodeWord_of_no_row {w : Word} (h : ∀ r ∈ opcodeRows, w &&& r.mask ≠ r.pattern) :
    decodeWord w = .noneWord := by
  by_contra hne
  obtain ⟨r, hr, hw⟩ := exists_row_of_not_isResidueWord (hne ∘ decodeWord_of_isResidueWord)
  exact h r hr hw

/-- What the operands column of R74 does not name changes nothing (30_encoding.md R79, 45_alu.md R196, R199). -/
theorem exec_ignores_unnamed_fields (x y y' : RegIdx) (i i' : Nibble) (s : State) :
    exec (.skipVXEqualVY x y i) s = exec (.skipVXEqualVY x y i') s ∧
    exec (.skipVXNotEqualVY x y i) s = exec (.skipVXNotEqualVY x y i') s ∧
    exec (.shiftRight x y) s = exec (.shiftRight x y') s ∧ exec (.shiftLeft x y) s = exec (.shiftLeft x y') s :=
  ⟨rfl, rfl, rfl, rfl⟩

/-- Settles O3: the rows decode as they say, are disjoint, and leave exactly the residue of R80. -/
theorem decoderFollowsTheDecodeMap : Obligations.DecoderFollowsTheDecodeMap :=
  ⟨rfl, fun w r hr => decodesAs_of_mem_opcodeRows r hr w, opcodeRows_pairwise_disjoint, fun _ => decodeWord_of_no_row,
    exec_ignores_unnamed_fields⟩

/-- Settles O4, from the number of each field and of a join. -/
theorem fieldsAreUnsignedBitRangesOfTheWord : Obligations.FieldsAreUnsignedBitRangesOfTheWord := fun w =>
  ⟨fieldOp_toNat w, fieldX_toNat w, fieldY_toNat w, fieldN_toNat w, fieldKK_toNat w, fieldNNN_toNat w,
    fieldKK_eq_append w, fieldNNN_eq_append w⟩

/-- Settles O5: each family is its own equation of the decoder, at each value of its selector. -/
theorem familiesSelectTheirVariants : Obligations.FamiliesSelectTheirVariants := by
  intro w
  refine ⟨fun ho => ?family0, fun ho => ?family8, fun ho => ?familyE, fun ho => ?familyF,
    decodeWord_of_op1, decodeWord_of_op2, decodeWord_of_op3, decodeWord_of_op4, decodeWord_of_op5, decodeWord_of_op6,
    decodeWord_of_op7, decodeWord_of_op9, decodeWord_of_opA, decodeWord_of_opB, decodeWord_of_opC, decodeWord_of_opD⟩
  case family0 =>
    exact ⟨(· ▸ rfl), (· ▸ rfl), fun h h' => (decodeWord_of_op0 ho).trans (decodeFamily0_eq_noneWord h h')⟩
  case family8 =>
    have select (n) (hn : fieldN w = n) : decodeWord w = _ := decodeWord_of_op8 ho hn
    exact ⟨select _, select _, select _, select _, select _, select _, select _, select _, select _,
      fun h => (select _ rfl).trans (decodeFamily8_eq_noneWord _ _ h)⟩
  case familyE =>
    have select (kk) (hk : fieldKK w = kk) : decodeWord w = _ := decodeWord_of_opE ho hk
    exact ⟨select _, select _, fun h => (select _ rfl).trans (decodeFamilyE_eq_noneWord _ h)⟩
  case familyF =>
    have select (kk) (hk : fieldKK w = kk) : decodeWord w = _ := decodeWord_of_opF ho hk
    exact ⟨select _, select _, select _, select _, select _, select _, select _, select _, select _,
      fun h => (select _ rfl).trans (decodeFamilyF_eq_noneWord _ h)⟩

end Sys2Proof.Machine
end

section
/-! The jump and the four skips that compare registers (41_control.md R120, R123 to R127). -/

namespace Sys2Proof.Machine

/-- Widening a target drops no bit, so a jump reaches all of 0x000 to 0xFFF. -/
@[simp] theorem zextAddr_toNat (nnn : Addr) : (zextAddr nnn).toNat = nnn.toNat :=
  BitVec.toNat_setWidth_of_le (by decide)

/-! What executing the jump and each skip is; the low nibble of a register skip stands on the left only (R79). -/

theorem exec_jump (nnn : Addr) (s : State) :
    exec (.jump nnn) s = complete .noSignal (s.setPc (zextAddr nnn)) := rfl

theorem exec_skipEqual (x : RegIdx) (kk : Byte) (s : State) :
    exec (.skipEqual x kk) s = complete .noSignal (skipWhen (s.reg x == kk) s) := rfl

theorem exec_skipNotEqual (x : RegIdx) (kk : Byte) (s : State) :
    exec (.skipNotEqual x kk) s = complete .noSignal (skipWhen (s.reg x != kk) s) := rfl

theorem exec_skipVXEqualVY (x y : RegIdx) (i : Nibble) (s : State) :
    exec (.skipVXEqualVY x y i) s = complete .noSignal (skipWhen (s.reg x == s.reg y) s) := rfl

theorem exec_skipVXNotEqualVY (x y : RegIdx) (i : Nibble) (s : State) :
    exec (.skipVXNotEqualVY x y i) s = complete .noSignal (skipWhen (s.reg x != s.reg y) s) := rfl

theorem skipWhen_beq_pc (a b : Byte) (s : State) :
    (skipWhen (a == b) s).pc = if a = b then s.pc + 2 else s.pc := by
  simp only [skipWhen_pc, beq_iff_eq]

theorem skipWhen_bne_pc (a b : Byte) (s : State) :
    (skipWhen (a != b) s).pc = if a = b then s.pc else s.pc + 2 := by
  simp only [skipWhen_pc, bne_iff_ne, ite_not]

/-- A skip completes with the `pc` that its condition gives, and keeps VF and the status. -/
theorem exists_complete_skipWhen {c : Bool} {s : State} {p : Word} (hp : (skipWhen c s).pc = p) :
    ∃ t, complete .noSignal (skipWhen c s) = .next t ∧ t.pc = p ∧
      t.reg 0xF = s.reg 0xF ∧ t.status = s.status ∧ t.signal = some .noSignal :=
  ⟨_, rfl, hp, skipWhen_reg s c 0xF, skipWhen_status s c, rfl⟩

/-- Settles O28: family 1 of the decoder, and the number of the widened target. -/
theorem jumpSetsPcToTheTarget : Obligations.JumpSetsPcToTheTarget :=
  ⟨decodesAs_maskA rfl fun _ => decodeWord_of_op1,
    fun nnn s => ⟨_, exec_jump nnn s, zextAddr_toNat nnn, State.setPc_reg s (zextAddr nnn) 0xF,
      State.setPc_status s (zextAddr nnn), rfl⟩⟩

/-- Settles O32: families 3 and 4 of the decoder, and a skip on Vx against the immediate. -/
theorem immediateSkipsCompareWithTheImmediate : Obligations.ImmediateSkipsCompareWithTheImmediate := by
  refine ⟨decodesAs_maskA rfl fun _ => decodeWord_of_op3, decodesAs_maskA rfl fun _ => decodeWord_of_op4,
    fun x kk s => ?_⟩
  rw [exec_skipEqual, exec_skipNotEqual]
  exact ⟨exists_complete_skipWhen (skipWhen_beq_pc _ _ s), exists_complete_skipWhen (skipWhen_bne_pc _ _ s)⟩

/-- Settles O33: families 5 and 9 of the decoder, and a skip on Vx against Vy, whatever the low nibble. -/
theorem registerSkipsCompareTwoRegisters : Obligations.RegisterSkipsCompareTwoRegisters := by
  refine ⟨decodesAs_maskA rfl fun _ => decodeWord_of_op5, decodesAs_maskA rfl fun _ => decodeWord_of_op9,
    fun x y i s => ?_⟩
  rw [exec_skipVXEqualVY, exec_skipVXNotEqualVY]
  exact ⟨exists_complete_skipWhen (skipWhen_beq_pc _ _ s), exists_complete_skipWhen (skipWhen_bne_pc _ _ s)⟩

end Sys2Proof.Machine
end

section
/-! The instructions that write an immediate: to Vx, added to Vx, and to `I` (43_immediate_index.md R150 to R152). -/

namespace Sys2Proof.Machine

theorem exec_setVX (x : RegIdx) (kk : Byte) (s : State) :
    exec (.setVX x kk) s = complete .noSignal (s.setReg x kk) := rfl

theorem exec_addVX (x : RegIdx) (kk : Byte) (s : State) :
    exec (.addVX x kk) s = complete .noSignal (s.setReg x (s.reg x + kk)) := rfl

theorem exec_setI (nnn : Addr) (s : State) :
    exec (.setI nnn) s = complete .noSignal (s.setI (zextAddr nnn)) := rfl

theorem zextAddr_toNat_le (nnn : Addr) : (zextAddr nnn).toNat ≤ 0xFFF := by
  rw [zextAddr_toNat]
  exact Nat.le_of_lt_succ nnn.isLt

/-- A write of Vx completes with the byte in Vx, and keeps the status and, unless it is the register written, VF. -/
theorem exists_complete_setReg (x : RegIdx) (b : Byte) (s : State) :
    ∃ t, complete .noSignal (s.setReg x b) = .next t ∧ t.reg x = b ∧
      (x ≠ 0xF → t.reg 0xF = s.reg 0xF) ∧ t.status = s.status ∧ t.signal = some .noSignal :=
  ⟨_, rfl, State.setReg_reg_same s x b, fun hx => State.setReg_reg_other s b hx.symm,
    State.setReg_status s x b, rfl⟩

/-- Settles O36: families 6 and 7 of the decoder, and a write of Vx; the sum of two bytes is the sum modulo 256. -/
theorem setVXAndAddVXWriteVx : Obligations.SetVXAndAddVXWriteVx := by
  refine ⟨decodesAs_maskA rfl fun _ => decodeWord_of_op6, decodesAs_maskA rfl fun _ => decodeWord_of_op7,
    fun x kk s => ?_⟩
  rw [exec_setVX, exec_addVX]
  obtain ⟨t, ht, hx, hrest⟩ := exists_complete_setReg x (s.reg x + kk) s
  have hsum : (t.reg x).toNat = ((s.reg x).toNat + kk.toNat) % 256 := by rw [hx, BitVec.toNat_add]
  exact ⟨exists_complete_setReg x kk s, t, ht, hsum, hrest⟩

/-- Settles O37: family A of the decoder, and the number and bound of the widened address. -/
theorem setIWritesTheIndexRegister : Obligations.SetIWritesTheIndexRegister :=
  ⟨decodesAs_maskA rfl fun _ => decodeWord_of_opA,
    fun nnn s => ⟨_, exec_setI nnn s, zextAddr_toNat nnn, zextAddr_toNat_le nnn, State.setI_reg s (zextAddr nnn) 0xF,
      State.setI_status s (zextAddr nnn), rfl⟩⟩

end Sys2Proof.Machine
end

section
/-! Clear, and a Draw whose sprite bytes are all inside the address space (44_display.md R170, R171, R175). -/

namespace Sys2Proof.Machine

theorem exec_clear (s : State) : exec .clear s = complete .clearScreen (s.setFb blankFb) := rfl

/-- The screen and the collision flag that a Draw leaves: the sprite that `I` addresses, blitted onto the screen from
the wrapped start position (44_display.md R171, R172). -/
def drawBlit (x y : RegIdx) (n : Nibble) (s : State) : Framebuffer × Bool :=
  blit ((s.reg x).toNat % Config.displayW) ((s.reg y).toNat % Config.displayH)
    (memRead s.mem s.regI.toNat n.toNat) s.fb

theorem exec_draw_of_blockFits (x y : RegIdx) {n : Nibble} {s : State} (h : BlockFits s n.toNat) :
    exec (.draw x y n) s = complete (.drawFrame (drawBlit x y n s).1)
      ((s.setFb (drawBlit x y n s).1).setReg vf (flagByte (drawBlit x y n s).2)) := by
  have hbad : badAddress s.regI n.toNat = none := (badAddress_eq_none _ _).2 h
  simp only [exec, execDraw, hbad, drawBlit]

/-- A sprite of no bytes is checked nowhere (44_display.md R171). -/
theorem blockFits_zero (s : State) : BlockFits s (0 : Nibble).toNat := fun _ hk => absurd hk (Nat.not_lt_zero _)

/-- A sprite of no bytes toggles no pixel and collides with none. -/
theorem drawBlit_zero (x y : RegIdx) (s : State) : drawBlit x y 0 s = (s.fb, false) := rfl

/-- A Draw that fits completes with the blit on the screen, and its signal is the frame of that screen. -/
theorem exists_complete_draw (x y : RegIdx) {n : Nibble} {s : State} (h : BlockFits s n.toNat) :
    ∃ t, exec (.draw x y n) s = .next t ∧ t.signal = some (.drawFrame t.fb) ∧ t.fb = (drawBlit x y n s).1 :=
  ⟨_, exec_draw_of_blockFits x y h, rfl, rfl⟩

/-- Settles O41: the row of Clear in the decoder, and the blank screen, which is the only piece Clear writes. -/
theorem clearBlanksTheScreen : Obligations.ClearBlanksTheScreen :=
  ⟨decodesAs_wholeWord rfl, fun s => ⟨_, exec_clear s, pixel_blank, rfl, State.setFb_reg s blankFb,
    State.setFb_status s blankFb⟩⟩

/-- Settles O44: the signal is taken from the screen the blit leaves; with n = 0 every state fits, and the blit is of no
bytes. -/
theorem drawReturnsTheWholeNewScreen : Obligations.DrawReturnsTheWholeNewScreen := by
  refine ⟨fun x y n s hfits => ?whole, fun x y s => ?empty⟩
  case whole =>
    obtain ⟨t, ht, hsig, -⟩ := exists_complete_draw x y hfits
    exact ⟨t, ht, hsig⟩
  case empty =>
    obtain ⟨t, ht, hsig, hfb⟩ := exists_complete_draw x y (blockFits_zero s)
    have hsame : t.fb = s.fb := by rw [hfb, drawBlit_zero]
    exact ⟨t, ht, hsig, fun r c => by rw [hsame]⟩

end Sys2Proof.Machine
end

section
/-! The move and the three bitwise operations (45_alu.md R190 to R193): each writes Vx and nothing else. -/

namespace Sys2Proof.Machine

theorem exec_move (x y : RegIdx) (s : State) :
    exec (.move x y) s = complete .noSignal (s.setReg x (s.reg y)) := rfl

theorem exec_or (x y : RegIdx) (s : State) :
    exec (.or x y) s = complete .noSignal (s.setReg x (s.reg x ||| s.reg y)) := rfl

theorem exec_and (x y : RegIdx) (s : State) :
    exec (.and x y) s = complete .noSignal (s.setReg x (s.reg x &&& s.reg y)) := rfl

theorem exec_xor (x y : RegIdx) (s : State) :
    exec (.xor x y) s = complete .noSignal (s.setReg x (s.reg x ^^^ s.reg y)) := rfl

/-- `exists_complete_setReg` for a byte that is known bit by bit. -/
theorem exists_complete_setReg_bits (x : RegIdx) (s : State) {v : Byte} {bit : Nat → Bool}
    (hv : ∀ b, v.getLsbD b = bit b) :
    ∃ t, complete .noSignal (s.setReg x v) = .next t ∧ (∀ b, (t.reg x).getLsbD b = bit b) ∧
      (x ≠ 0xF → t.reg 0xF = s.reg 0xF) ∧ t.status = s.status ∧ t.signal = some .noSignal := by
  obtain ⟨t, ht, hx, hrest⟩ := exists_complete_setReg x v s
  exact ⟨t, ht, hx ▸ hv, hrest⟩

/-- Settles O45: family 8 of the decoder at the selectors 0 to 3, and a write of Vx whose byte is Vy or a bitwise
operation on Vx and Vy. -/
theorem moveAndLogicActBitwise : Obligations.MoveAndLogicActBitwise := by
  refine ⟨decodesAs_maskXYS rfl rfl fun _ => decodeWord_of_op8, decodesAs_maskXYS rfl rfl fun _ => decodeWord_of_op8,
    decodesAs_maskXYS rfl rfl fun _ => decodeWord_of_op8, decodesAs_maskXYS rfl rfl fun _ => decodeWord_of_op8,
    fun x y s => ?_⟩
  rw [exec_move, exec_or, exec_and, exec_xor]
  exact ⟨exists_complete_setReg x (s.reg y) s,
    exists_complete_setReg_bits x s fun _ => BitVec.getLsbD_or,
    exists_complete_setReg_bits x s fun _ => BitVec.getLsbD_and,
    exists_complete_setReg_bits x s fun _ => BitVec.getLsbD_xor⟩

end Sys2Proof.Machine
end

section
/-! The timer transfers (46_memory_timers.md R213 to R215), and the count of a timer after a TICK that fires
(60_exceptions.md R255). -/

namespace Sys2Proof.Machine

theorem exec_getDT (x : RegIdx) (s : State) :
    exec (.getDT x) s = complete .noSignal (s.setReg x s.dt) := rfl

theorem exec_setDT (x : RegIdx) (s : State) :
    exec (.setDT x) s = complete .noSignal (s.setDelay (s.reg x)) := rfl

theorem exec_setST (x : RegIdx) (s : State) :
    exec (.setST x) s = complete .noSignal (s.setSound (s.reg x)) := rfl

/-- Natural subtraction is the countdown's floor: a timer at 0 stays at 0. -/
theorem timerTick_true_dt_toNat (s : State) : (timerTick true s).dt.toNat = s.dt.toNat - 1 := by
  rw [timerTick_dt, if_pos rfl, countdown_toNat]

theorem timerTick_true_st_toNat (s : State) : (timerTick true s).st.toNat = s.st.toNat - 1 := by
  rw [timerTick_st, if_pos rfl, countdown_toNat]

/-- A write of DT completes with the byte in DT, where a TICK counts it down, and keeps VF and the status. -/
theorem exists_complete_setDelay (b : Byte) (s : State) :
    ∃ t, complete .noSignal (s.setDelay b) = .next t ∧ t.dt = b ∧ (timerTick true t).dt.toNat = b.toNat - 1 ∧
      t.reg 0xF = s.reg 0xF ∧ t.status = s.status ∧ t.signal = some .noSignal :=
  ⟨_, rfl, State.setDelay_dt s b, timerTick_true_dt_toNat _, State.setDelay_reg s b 0xF, State.setDelay_status s b, rfl⟩

/-- A write of ST completes with the byte in ST, where a TICK counts it down, and keeps VF and the status. -/
theorem exists_complete_setSound (b : Byte) (s : State) :
    ∃ t, complete .noSignal (s.setSound b) = .next t ∧ t.st = b ∧ (timerTick true t).st.toNat = b.toNat - 1 ∧
      t.reg 0xF = s.reg 0xF ∧ t.status = s.status ∧ t.signal = some .noSignal :=
  ⟨_, rfl, State.setSound_st s b, timerTick_true_st_toNat _, State.setSound_reg s b 0xF, State.setSound_status s b, rfl⟩

/-- Settles O53: family F of the decoder at three selectors, a write of Vx with DT, and a write of each timer with Vx. -/
theorem timerTransfersCopyOneByte : Obligations.TimerTransfersCopyOneByte := by
  refine ⟨decodesAs_maskXS rfl fun _ => decodeWord_of_opF, decodesAs_maskXS rfl fun _ => decodeWord_of_opF,
    decodesAs_maskXS rfl fun _ => decodeWord_of_opF, fun x s => ?_⟩
  rw [exec_getDT, exec_setDT, exec_setST]
  exact ⟨exists_complete_setReg x s.dt s, exists_complete_setDelay (s.reg x) s, exists_complete_setSound (s.reg x) s⟩

end Sys2Proof.Machine
end

section
/-! A word of the `None` residue is a no-op (47_noop.md R230). -/

namespace Sys2Proof.Machine

/-- A Running core that fetches `w` executes what `w` decodes to, in the advanced state. -/
theorem step_of_fetches {s : State} {w : Word} (h : Fetches s w) :
    step s = finishCycle (execDecoded w (decodeWord w) (advance s)) := by
  obtain ⟨hrun, hpc, rfl⟩ := h
  exact step_goodFetch hrun hpc

theorem execDecoded_noneWord (w : Word) (s : State) : execDecoded w .noneWord s = complete .noSignal s := rfl

/-- An instruction that completes in a Running state ends its cycle with the timer check. -/
theorem finishCycle_complete {s : State} (h : s.status = .running) (sig : Signal) :
    finishCycle (complete sig s) = .next (timerCheck (s.emit sig)) :=
  finishCycle_running ((State.emit_status s sig).trans h)

/-- Settles O18: a residue word decodes to None, which completes in the advanced state. -/
theorem noneWordIsANoOp : Obligations.NoneWordIsANoOp := by
  intro s w hf hw
  have hrun : (advance s).status = .running := (advance_status s).trans hf.1
  calc step s
    _ = finishCycle (execDecoded w (decodeWord w) (advance s)) := step_of_fetches hf
    _ = finishCycle (complete .noSignal (advance s)) := by rw [decodeWord_of_isResidueWord hw, execDecoded_noneWord]
    _ = .next (timerCheck ((advance s).emit .noSignal)) := finishCycle_complete hrun .noSignal

end Sys2Proof.Machine
end

section
/-! The signal a completed cycle returns (60_exceptions.md R262). -/

namespace Sys2Proof.Machine

/-- The signal that R262 gives to a cycle whose decoder answered `d` and which leaves the screen `fb`. -/
def cycleSignal (d : Decoded) (fb : Framebuffer) : Signal :=
  match d with
  | .variant .clear => .clearScreen
  | .variant (.draw _ _ _) => .drawFrame fb
  | _ => .noSignal

/-- If the answer `r` is a state that still runs, the signal it holds is the one `g` gives to its screen. -/
def Signals (g : Framebuffer → Signal) (r : Result) : Prop :=
  ∀ u, r = .next u → u.status = .running → u.signal = some (g u.fb)

theorem signals_complete {g : Framebuffer → Signal} {sig : Signal} {s : State} (h : sig = g s.fb) :
    Signals g (complete sig s) := by
  rintro u ⟨⟩ -
  rw [State.emit_signal, State.emit_fb, h]

theorem State.haltAt_not_running (s : State) (e : ErrorRecord) : (s.haltAt e).status ≠ .running := nofun

/-- An error leaves a halted core, so it owes no signal. -/
theorem signals_raise (g : Framebuffer → Signal) (kind : ErrorKind) (info : Option Nat) (w : Word) (s : State) :
    Signals g (raise kind info w s) := by
  rintro u ⟨⟩ hrun
  exact absurd hrun (State.haltAt_not_running s _)

/-- Six instructions check first and may raise; the other 28 complete in every state. -/
theorem exec_signals (i : Instr) (s : State) : Signals (cycleSignal (.variant i)) (exec i s) := by
  cases i with
  | gotoSub | returnSub =>
    simp only [exec, execGotoSub, execReturnSub]
    split
    · exact signals_complete rfl
    · exact signals_raise _ _ _ _ s
  | draw | bcdConvert | storeRegs | loadRegs =>
    simp only [exec, execDraw, execBcdConvert, execStoreRegs, execLoadRegs]
    split
    · exact signals_raise _ _ _ _ s
    · exact signals_complete rfl
  | clear | jump | jumpWithOffset | skipEqual | skipNotEqual | skipVXEqualVY | skipVXNotEqualVY | setVX | addVX
  | move | or | and | xor | addReg | subVYFromVX | shiftRight | subVXFromVY | shiftLeft | setI | addI | fontChar
  | random | skipIfKey | skipIfNotKey | getKey | getDT | setDT | setST => exact signals_complete rfl

theorem execDecoded_signals (w : Word) (d : Decoded) (s : State) : Signals (cycleSignal d) (execDecoded w d s) := by
  cases d with
  | variant i => exact exec_signals i s
  | noneWord => exact signals_complete rfl
  | errorFamily => exact signals_raise _ _ _ _ s

/-- Settles O27: a step whose core still runs has executed what it fetched, and the timer check keeps the signal and the
screen. -/
theorem eachCompletedCycleReturnsItsSignal : Obligations.EachCompletedCycleReturnsItsSignal := by
  intro s t hstep hrun
  obtain ⟨-, ⟨-, rfl⟩ | ⟨-, u, hexec, hrunU, -, rfl⟩ | ⟨-, w, kind, info, rfl, -, -⟩⟩ := step_cases hstep
  · exact absurd hrun (State.haltAt_not_running s _)
  · exact execDecoded_signals _ _ _ u hexec hrunU
  · exact absurd hrun (State.haltAt_not_running s _)

end Sys2Proof.Machine
end

section
/-! The encoder and the decoder are inverse to each other, and the residue of R80 is all that decodes to None
(30_encoding.md R72, R74, R80, R81). -/

namespace Sys2Proof.Machine

/-! ### From an instruction to its word and back -/

/-- Format by format: the fields that the decoder reads from an encoded word are the operands the word was made of. -/
theorem decodeWord_encodeWord (i : Instr) : decodeWord (encodeWord i) = .variant i := by
  cases i with
  | clear | returnSub => rfl
  | jump | gotoSub | setI | jumpWithOffset =>
    rw [encodeWord, decodeWord, fieldOp_formatA, fieldNNN_formatA]
    rfl
  | skipEqual | skipNotEqual | setVX | addVX | random | skipIfKey | skipIfNotKey
  | getDT | getKey | setDT | setST | addI | fontChar | bcdConvert | storeRegs | loadRegs =>
    rw [encodeWord, decodeWord, fieldOp_formatXK, fieldX_formatXK, fieldKK_formatXK]
    rfl
  | skipVXEqualVY | skipVXNotEqualVY | draw
  | move | or | and | xor | addReg | subVYFromVX | shiftRight | subVXFromVY | shiftLeft =>
    rw [encodeWord, decodeWord, fieldOp_formatXY, fieldX_formatXY, fieldY_formatXY, fieldN_formatXY]
    rfl

/-- The decoder reads a word from the front of its bytes in memory order and leaves the rest (20_memory.md R55). -/
theorem decodeBytes_bytesOfWord (w : Word) (rest : List Byte) :
    decodeBytes (bytesOfWord w ++ rest) = .ok (decodeWord w, rest) := by
  have h : decodeBytes (bytesOfWord w ++ rest) =
      .ok (decodeWord (wordOfBytes (w.extractLsb' 8 8) (w.extractLsb' 0 8)), rest) := rfl
  rw [h, wordOfBytes_bytesOfWord]

/-- Settles O1: the round trip on the word, carried over to its two bytes. -/
theorem encodedInstructionDecodesToItself : Obligations.EncodedInstructionDecodesToItself := fun i rest =>
  ⟨decodeWord_encodeWord i, by rw [encode, decodeBytes_bytesOfWord, decodeWord_encodeWord]⟩

/-! ### From a word on a row of the decode map to its instruction and back

A word is put together again from the fields that its row's mask keeps and the fields that the row's variant holds. -/

theorem formatA_of_mask {w p : Word} (hp : fieldNNN p = 0) (h : w &&& 0xF000 = p) :
    (fieldOp p ++ fieldNNN w : Word) = w := by
  rw [← (and_maskA_eq w p hp).1 h, word_formatA]

theorem formatXK_of_mask {w p : Word} (hp : fieldNNN p = 0) (h : w &&& 0xF000 = p) :
    (fieldOp p ++ fieldX w ++ fieldKK w : Word) = w := by
  rw [← (and_maskA_eq w p hp).1 h, word_formatXK]

theorem formatXY_of_mask {w p : Word} (hp : fieldNNN p = 0) (h : w &&& 0xF000 = p) :
    (fieldOp p ++ fieldX w ++ fieldY w ++ fieldN w : Word) = w := by
  rw [← (and_maskA_eq w p hp).1 h, word_formatXY]

theorem formatXS_of_mask {w p : Word} (hp : fieldX p = 0) (h : w &&& 0xF0FF = p) :
    (fieldOp p ++ fieldX w ++ fieldKK p : Word) = w := by
  obtain ⟨ho, hk⟩ := (and_maskXS_eq w p hp).1 h
  rw [← ho, ← hk, word_formatXK]

theorem formatXYS_of_mask {w p : Word} (hp : fieldX p = 0) (hp' : fieldY p = 0) (h : w &&& 0xF00F = p) :
    (fieldOp p ++ fieldX w ++ fieldY w ++ fieldN p : Word) = w := by
  obtain ⟨ho, hn⟩ := (and_maskXYS_eq w p hp hp').1 h
  rw [← ho, ← hn, word_formatXY]

/-- The row's variant of every word on the row is encoded as that word. -/
def EncodesBack (r : OpcodeRow) : Prop := ∀ w : Word, w &&& r.mask = r.pattern → encodeWord (r.make w) = w

theorem encodesBack_of_mem_opcodeRows : ∀ r ∈ opcodeRows, EncodesBack r := by
  simp only [opcodeRows, List.cons_append, List.nil_append, List.forall_mem_cons]
  exact ⟨fun w h => h.symm.trans (and_wholeWord w), fun w h => h.symm.trans (and_wholeWord w),
    fun _ => formatA_of_mask rfl, fun _ => formatA_of_mask rfl,
    fun _ => formatXK_of_mask rfl, fun _ => formatXK_of_mask rfl, fun _ => formatXY_of_mask rfl,
    fun _ => formatXK_of_mask rfl, fun _ => formatXK_of_mask rfl,
    fun _ => formatXYS_of_mask rfl rfl, fun _ => formatXYS_of_mask rfl rfl, fun _ => formatXYS_of_mask rfl rfl,
    fun _ => formatXYS_of_mask rfl rfl, fun _ => formatXYS_of_mask rfl rfl, fun _ => formatXYS_of_mask rfl rfl,
    fun _ => formatXYS_of_mask rfl rfl, fun _ => formatXYS_of_mask rfl rfl, fun _ => formatXYS_of_mask rfl rfl,
    fun _ => formatXY_of_mask rfl, fun _ => formatA_of_mask rfl, fun _ => formatA_of_mask rfl,
    fun _ => formatXK_of_mask rfl, fun _ => formatXY_of_mask rfl,
    fun _ => formatXS_of_mask rfl, fun _ => formatXS_of_mask rfl, fun _ => formatXS_of_mask rfl,
    fun _ => formatXS_of_mask rfl, fun _ => formatXS_of_mask rfl, fun _ => formatXS_of_mask rfl,
    fun _ => formatXS_of_mask rfl, fun _ => formatXS_of_mask rfl, fun _ => formatXS_of_mask rfl,
    fun _ => formatXS_of_mask rfl, fun _ => formatXS_of_mask rfl, fun _ h => nomatch h⟩

/-- Outside the residue of R80 a word decodes to an instruction, and it is that instruction's encoding. -/
theorem exists_variant_of_not_isResidueWord {w : Word} (h : ¬IsResidueWord w) :
    ∃ i, decodeWord w = .variant i ∧ encodeWord i = w := by
  obtain ⟨r, hr, hw⟩ := exists_row_of_not_isResidueWord h
  exact ⟨r.make w, decodesAs_of_mem_opcodeRows r hr w hw, encodesBack_of_mem_opcodeRows r hr w hw⟩

/-- What the decoder answers: None on the residue, else the instruction whose encoding the word is. -/
theorem decodeWord_cases (w : Word) :
    (IsResidueWord w ∧ decodeWord w = .noneWord) ∨
    (¬IsResidueWord w ∧ ∃ i, decodeWord w = .variant i ∧ encodeWord i = w) := by
  by_cases h : IsResidueWord w
  · exact .inl ⟨h, decodeWord_of_isResidueWord h⟩
  · exact .inr ⟨h, exists_variant_of_not_isResidueWord h⟩

theorem encodeWord_of_decodeWord {w : Word} {i : Instr} (h : decodeWord w = .variant i) : encodeWord i = w := by
  obtain ⟨-, hnone⟩ | ⟨-, j, hj, hw⟩ := decodeWord_cases w
  · exact absurd (h.symm.trans hnone) nofun
  · obtain rfl : i = j := Decoded.variant.inj (h.symm.trans hj)
    exact hw

theorem decodeWord_ne_errorFamily (w : Word) : decodeWord w ≠ .errorFamily := by
  obtain ⟨-, h⟩ | ⟨-, i, h, -⟩ := decodeWord_cases w <;> rw [h] <;> nofun

/-- Settles O2: a word that decodes to an instruction lies on a row, and rows encode back. -/
theorem decodedWordEncodesBack : Obligations.DecodedWordEncodesBack := fun _ _ => encodeWord_of_decodeWord

/-- Settles O6: a word of the residue decodes to None, and every other word to an instruction. -/
theorem noneResidueIsExactlyTheListedWords : Obligations.NoneResidueIsExactlyTheListedWords := by
  refine fun w => ⟨fun hnone => ?_, decodeWord_of_isResidueWord⟩
  obtain ⟨h, -⟩ | ⟨-, i, hi, -⟩ := decodeWord_cases w
  · exact h
  · exact absurd (hnone.symm.trans hi) nofun

/-- Settles O7: the decoder's two answers leave no word for the Error sentinel. -/
theorem noWordDecodesToTheErrorSentinel : Obligations.NoWordDecodesToTheErrorSentinel := decodeWord_ne_errorFamily

/-- Settles O8: the decoder run on each vector. -/
theorem sampleWordsDecodeAsTheVectorsSay : Obligations.SampleWordsDecodeAsTheVectorsSay :=
  ⟨rfl, rfl, rfl, rfl, rfl, rfl, rfl, rfl, rfl, rfl, rfl, rfl, rfl, rfl, rfl, rfl, rfl⟩

end Sys2Proof.Machine
end

section
/-! Blocks of memory, words of memory, and the address check (20_memory.md R52, R55, R60). -/

namespace Sys2Proof.Machine

/-- A block that is written inside the address space is read back. -/
theorem memRead_memWrite {m : Memory} (hm : Memory.wf m) {a : Nat} {bs : List Byte} (ha : a + bs.length ≤ 4096) :
    memRead (memWrite m a bs) a bs.length = bs := by
  refine List.ext_getElem (memRead_length _ _ _) fun k h hk => ?_
  rw [memRead_getElem, memReadByte_memWrite_inside hm bs hk ha]

theorem memReadWord_toNat (m : Memory) (a : Nat) :
    (memReadWord m a).toNat = 256 * (memReadByte m a).toNat + (memReadByte m (a + 1)).toNat := by
  rw [memReadWord, wordOfBytes, append_toNat, Nat.mul_comm]
  rfl

/-- Settles O9: the block is read back, and a store reaches no byte outside it. -/
theorem blockReadGivesTheBlockWritten : Obligations.BlockReadGivesTheBlockWritten := fun m _ bs hm ha =>
  ⟨memRead_memWrite hm ha, fun _ hb => memReadByte_memWrite_outside m bs hb⟩

/-- Settles O10, from the number of a join. -/
theorem fetchedWordIsBigEndian : Obligations.FetchedWordIsBigEndian := memReadWord_toNat

/-- Settles O26: the check fails exactly for a block that reaches past 0xFFF, and reports the larger of its base and
0x1000. -/
theorem lowestAddressOutsideMemoryIsReported : Obligations.LowestAddressOutsideMemoryIsReported := by
  intro base n bad
  rw [badAddress_eq_some]
  constructor
  · rintro ⟨hn, hend, rfl⟩
    exact ⟨⟨max base.toNat 0x1000 - base.toNat, by omega, by omega⟩, by omega, fun k _ hk => by omega⟩
  · rintro ⟨⟨k, hk, rfl⟩, hbad, hleast⟩
    have hlow := hleast (max base.toNat 0x1000 - base.toNat) (by omega) (by omega)
    omega

end Sys2Proof.Machine
end

section
/-! Reset and boot: what memory reads as, the invariant, and the first cycle (10_state.md R40, R41;
70_reset_and_hazards.md R280 to R284). -/

namespace Sys2Proof.Machine

theorem State.resetWith_mem (font : Font) : (State.resetWith font).mem = memWrite [] 0x50 font.toList := rfl

theorem loadRom_mem (rom : List Byte) (s : State) : (loadRom rom s).mem = memWrite s.mem 0x200 rom := rfl

theorem memory_wf_nil : Memory.wf [] := by decide

theorem initialByte_outside_font {a : Nat} (h : a < 0x50 ∨ 0x9F < a) : initialByte a = 0 := by
  rw [initialByte, if_neg]
  change ¬(0x50 ≤ a ∧ a < 0x50 + 80)
  omega

theorem memReadByte_resetWith_font (font : Font) {k : Nat} (h : k < 80) :
    memReadByte (State.resetWith font).mem (0x50 + k) = font[k] := by
  have hlen : font.toList.length = 80 := Vector.length_toList
  rw [State.resetWith_mem, memReadByte_memWrite_inside memory_wf_nil font.toList (by omega) (by omega),
    Vector.getElem_toList]

theorem memReadByte_resetWith_outside (font : Font) {a : Nat} (h : a < 0x50 ∨ 0x9F < a) :
    memReadByte (State.resetWith font).mem a = 0 := by
  have hlen : font.toList.length = 80 := Vector.length_toList
  rw [State.resetWith_mem, memReadByte_memWrite_outside _ _ (by omega), memReadByte, initialByte_outside_font h]

/-- Every byte of the default FONT is what its address reads as unlisted, so writing it lists no cell. -/
theorem State.resetWith_defaultFont : State.resetWith defaultFont = State.reset := by decide +kernel

/-- Settles O12: a read of FONT's block, and of an address outside it. -/
theorem resetMemoryHoldsFontAndZeros : Obligations.ResetMemoryHoldsFontAndZeros :=
  ⟨fun font => ⟨fun _ => memReadByte_resetWith_font font, fun _ _ => memReadByte_resetWith_outside font⟩,
    State.resetWith_defaultFont⟩

theorem State.reset_reg (r : RegIdx) : State.reset.reg r = 0 := Vector.getElem_replicate ..

theorem State.reset_slot (j : Fin 16) : State.reset.stack[j] = 0 := Vector.getElem_replicate ..

/-- Settles O14: FONT is written to memory alone, so every other component is that of `State.reset`. -/
theorem resetComponentsHoldTheirValues : Obligations.ResetComponentsHoldTheirValues := by
  rintro font _ rfl
  exact ⟨rfl, rfl, rfl, pixel_blank, State.reset_reg, rfl, rfl, rfl, State.reset_slot⟩

theorem inv_resetWith (font : Font) : Inv (State.resetWith font) where
  memory := State.resetWith_wf font
  counter := show (0x200 : Word).toNat ≤ 0x10FE by decide
  slots j := by
    change (State.reset.stack[j]).toNat ≤ 0x1000
    rw [State.reset_slot]
    decide
  halted _ h := nomatch h

theorem inv_loadRom {s : State} (h : Inv s) (rom : List Byte) : Inv (loadRom rom s) :=
  ⟨loadRom_wf rom h.memory, h.counter, h.slots, h.halted⟩

/-- Settles O16: `State.reset` is the reset with the default FONT. -/
theorem resetMeetsTheInvariant : Obligations.ResetMeetsTheInvariant :=
  ⟨State.resetWith_defaultFont ▸ inv_resetWith defaultFont, inv_resetWith⟩

/-- Settles O15: a ROM that fits is a block written over the reset memory. -/
theorem bootLoadsTheRomOrRejectsIt : Obligations.BootLoadsTheRomOrRejectsIt := by
  refine fun font rom => ⟨fun hfits => ?fits, fun hlong => ⟨boot_of_long font hlong, rfl⟩⟩
  case fits =>
    refine ⟨_, boot_of_fits font hfits, rfl, inv_loadRom (inv_resetWith font) rom, fun k hk => ?inside,
      fun a ha => ?outside⟩
    case inside =>
      rw [loadRom_mem, memReadByte_memWrite_inside (State.resetWith_wf font) rom hk (by omega)]
    case outside =>
      rw [loadRom_mem, memReadByte_memWrite_outside _ rom (by omega)]

theorem eq_loadRom_of_boot {font : Font} {rom : List Byte} {s : State} (h : boot font rom = .started s) :
    s = loadRom rom (State.resetWith font) := by
  by_cases hfits : rom.length ≤ 3584
  · exact BootResult.started.inj (h.symm.trans (boot_of_fits font hfits))
  · exact absurd (h.symm.trans (boot_of_long font (by omega))) nofun

/-- Settles O13: a booted core is Running at 0x200, where the fetch is inside memory. -/
theorem firstCycleFetchesAtProgramStart : Obligations.FirstCycleFetchesAtProgramStart := by
  intro font rom s h
  obtain rfl := eq_loadRom_of_boot h
  have hpc : (loadRom rom (State.resetWith font)).pc = 0x200 := rfl
  exact ⟨hpc, step_goodFetch rfl (by rw [hpc]; decide)⟩

end Sys2Proof.Machine
end

section
/-! What executing each of the other instructions is: the address it checks, the state it completes in, or the error it
raises. -/

namespace Sys2Proof.Machine

/-! ### Instructions that complete in every state -/

theorem exec_jumpWithOffset (nnn : Addr) (s : State) :
    exec (.jumpWithOffset nnn) s = complete .noSignal (s.setPc (zextAddr nnn + zextByte (s.reg 0))) := rfl

theorem exec_random (x : RegIdx) (kk : Byte) (s : State) :
    exec (.random x kk) s = complete .noSignal (s.tookRand.setReg x (Config.rand s.randDraws &&& kk)) := rfl

theorem exec_fontChar (x : RegIdx) (s : State) :
    exec (.fontChar x) s = complete .noSignal (s.setI (BitVec.ofNat 16 ((s.reg x).toNat * 5 + 0x50))) := rfl

/-- What AddI leaves in VF: 1 when the new `I` is 0x1000 or more, else the old value. -/
def addIFlag (x : RegIdx) (s : State) : Byte :=
  if 0x1000 ≤ (s.regI + zextByte (s.reg x)).toNat then 1 else s.reg vf

/-- Writing the old value of VF back is no write (`State.setReg_self`), so AddI is one write of `I` and one of VF. -/
theorem exec_addI (x : RegIdx) (s : State) :
    exec (.addI x) s = complete .noSignal ((s.setI (s.regI + zextByte (s.reg x))).setReg vf (addIFlag x s)) := by
  unfold addIFlag
  split_ifs with h
  · exact execAddI_of_overflow x s (decide_eq_true h)
  · rw [← State.setI_reg s (s.regI + zextByte (s.reg x)) vf, State.setReg_self]
    exact execAddI_of_inside x s (decide_eq_false h)

theorem exec_addReg (x y : RegIdx) (s : State) : exec (.addReg x y) s =
    complete .noSignal (s.setResultAndFlag x (s.reg x + s.reg y) (carry (s.reg x) (s.reg y))) := rfl

theorem exec_subVYFromVX (x y : RegIdx) (s : State) : exec (.subVYFromVX x y) s =
    complete .noSignal (s.setResultAndFlag x (s.reg x - s.reg y) (noBorrow (s.reg x) (s.reg y))) := rfl

theorem exec_subVXFromVY (x y : RegIdx) (s : State) : exec (.subVXFromVY x y) s =
    complete .noSignal (s.setResultAndFlag x (s.reg y - s.reg x) (noBorrow (s.reg y) (s.reg x))) := rfl

theorem exec_shiftRight (x y : RegIdx) (s : State) : exec (.shiftRight x y) s =
    complete .noSignal (s.setResultAndFlag x (s.reg x >>> 1) (bitOutRight (s.reg x))) := rfl

theorem exec_shiftLeft (x y : RegIdx) (s : State) : exec (.shiftLeft x y) s =
    complete .noSignal (s.setResultAndFlag x (s.reg x <<< 1) (bitOutLeft (s.reg x))) := rfl

theorem exec_skipIfKey (x : RegIdx) (s : State) : exec (.skipIfKey x) s =
    complete .noSignal (skipWhen (keyEquals (Config.key s.keyQueries) (s.reg x)) s.tookKey) := rfl

theorem exec_skipIfNotKey (x : RegIdx) (s : State) : exec (.skipIfNotKey x) s =
    complete .noSignal (skipWhen (!keyEquals (Config.key s.keyQueries) (s.reg x)) s.tookKey) := rfl

theorem exec_getKey (x : RegIdx) (s : State) : exec (.getKey x) s =
    complete .noSignal ((s.tookKey.setReg x (keyOr (Config.key s.keyQueries) (s.reg x))).setPc
      (keyPc (Config.key s.keyQueries) s.pc)) := rfl

/-! ### The call and the return -/

theorem exec_gotoSub_of_lt (nnn : Addr) {s : State} (h : s.sp.val < 16) :
    exec (.gotoSub nnn) s = complete .noSignal ((s.push s.pc h).setPc (zextAddr nnn)) := execGotoSub_of_lt nnn s h

theorem exec_gotoSub_of_full (nnn : Addr) {s : State} (h : s.sp.val = 16) :
    exec (.gotoSub nnn) s = raise .stackOverflow none (encodeWord (.gotoSub nnn)) s := execGotoSub_of_full nnn s h

theorem exec_returnSub_of_pos {s : State} (h : 0 < s.sp.val) :
    exec .returnSub s = complete .noSignal (s.pop.setPc (s.top h)) := execReturnSub_of_pos s h

theorem exec_returnSub_of_empty {s : State} (h : s.sp.val = 0) :
    exec .returnSub s = raise .stackUnderflow none (encodeWord .returnSub) s := execReturnSub_of_empty s h

/-! ### The block instructions (20_memory.md R52) -/

theorem badAddress_of_blockFits {s : State} {n : Nat} (h : BlockFits s n) : badAddress s.regI n = none :=
  (badAddress_eq_none _ _).2 h

theorem badAddress_of_not_blockFits {s : State} {n : Nat} (h : ¬BlockFits s n) :
    badAddress s.regI n = some (max s.regI.toNat 0x1000) := by
  cases hbad : badAddress s.regI n with
  | none => exact absurd ((badAddress_eq_none _ _).1 hbad) h
  | some bad =>
    obtain ⟨-, -, rfl⟩ := (badAddress_eq_some _ _ _).1 hbad
    rfl

theorem exec_bcdConvert_of_blockFits (x : RegIdx) {s : State} (h : BlockFits s 3) : exec (.bcdConvert x) s =
    complete .noSignal (s.setMem (memWrite s.mem s.regI.toNat (bcdDigits (s.reg x)))) :=
  execBcdConvert_of_inside x s (badAddress_of_blockFits h)

theorem exec_storeRegs_of_blockFits {x : RegIdx} {s : State} (h : BlockFits s (x.toNat + 1)) : exec (.storeRegs x) s =
    complete .noSignal (s.setMem (memWrite s.mem s.regI.toNat (s.regsUpTo x))) :=
  execStoreRegs_of_inside x s (badAddress_of_blockFits h)

theorem exec_loadRegs_of_blockFits {x : RegIdx} {s : State} (h : BlockFits s (x.toNat + 1)) : exec (.loadRegs x) s =
    complete .noSignal (s.setRegsFrom (memRead s.mem s.regI.toNat (x.toNat + 1))) :=
  execLoadRegs_of_inside x s (badAddress_of_blockFits h)

/-- The error of an instruction whose block leaves memory: it names the lowest address outside (D5). -/
def raiseBadBlock (i : Instr) (s : State) : Result :=
  raise .addressOutOfRange (some (max s.regI.toNat 0x1000)) (encodeWord i) s

theorem exec_draw_of_not_blockFits (x y : RegIdx) {n : Nibble} {s : State} (h : ¬BlockFits s n.toNat) :
    exec (.draw x y n) s = raiseBadBlock (.draw x y n) s := by
  simp only [exec, execDraw, badAddress_of_not_blockFits h, raiseBadBlock]

theorem exec_bcdConvert_of_not_blockFits (x : RegIdx) {s : State} (h : ¬BlockFits s 3) :
    exec (.bcdConvert x) s = raiseBadBlock (.bcdConvert x) s := by
  simp only [exec, execBcdConvert, badAddress_of_not_blockFits h, raiseBadBlock]

theorem exec_storeRegs_of_not_blockFits {x : RegIdx} {s : State} (h : ¬BlockFits s (x.toNat + 1)) :
    exec (.storeRegs x) s = raiseBadBlock (.storeRegs x) s := by
  simp only [exec, execStoreRegs, badAddress_of_not_blockFits h, raiseBadBlock]

theorem exec_loadRegs_of_not_blockFits {x : RegIdx} {s : State} (h : ¬BlockFits s (x.toNat + 1)) :
    exec (.loadRegs x) s = raiseBadBlock (.loadRegs x) s := by
  simp only [exec, execLoadRegs, badAddress_of_not_blockFits h, raiseBadBlock]

/-- Settles O49: each of the four raises from its failed check, and the error leaves the state halted at the
instruction. -/
theorem blockOutsideMemoryRaisesLoadError : Obligations.BlockOutsideMemoryRaisesLoadError := fun _ =>
  ⟨fun x y _ => exec_draw_of_not_blockFits x y, fun x =>
    ⟨exec_bcdConvert_of_not_blockFits x, exec_storeRegs_of_not_blockFits, exec_loadRegs_of_not_blockFits⟩⟩

end Sys2Proof.Machine
end

section
/-! The frame rule (40_cycle.md R102): what each state operation writes, and from it what each instruction writes. -/

namespace Sys2Proof.Machine

/-- The piece is the same data after as before; so it reads alike (`Kept.same`). -/
def Kept (s t : State) : Piece → Prop
  | .regs => t.v = s.v
  | .mem => t.mem = s.mem
  | .index => t.regI = s.regI
  | .pc => t.pc = s.pc
  | .stack => t.sp = s.sp ∧ t.stack = s.stack
  | .delay => t.dt = s.dt
  | .sound => t.st = s.st
  | .screen => t.fb = s.fb
  | .status => t.status = s.status
  | .keys => t.keyQueries = s.keyQueries
  | .rand => t.randDraws = s.randDraws
  | .ticks => t.tickChecks = s.tickChecks

/-- Every piece but the listed ones is kept. -/
def KeptBut (changed : List Piece) (s t : State) : Prop := ∀ p, p ∉ changed → Kept s t p

theorem Kept.same {s t : State} {p : Piece} (h : Kept s t p) : Same s t p := by
  cases p with
  | regs => exact fun r => congrArg (fun v : Vector Byte 16 => v[r.toNat]'r.isLt) h
  | mem => exact fun a => congrArg (memReadByte · a) h
  | stack => exact ⟨h.1, fun j => congrArg (·[j]) h.2⟩
  | screen => exact fun r c => congrArg (pixel · r c) h
  | index | pc | delay | sound | status | keys | rand | ticks => exact h

theorem Kept.refl (s : State) (p : Piece) : Kept s s p := by
  cases p with
  | stack => exact ⟨rfl, rfl⟩
  | regs | mem | index | pc | delay | sound | screen | status | keys | rand | ticks => exact rfl

theorem Kept.trans {s t u : State} {p : Piece} (h : Kept s t p) (h' : Kept t u p) : Kept s u p := by
  cases p with
  | stack => exact ⟨h'.1.trans h.1, h'.2.trans h.2⟩
  | regs | mem | index | pc | delay | sound | screen | status | keys | rand | ticks => exact Eq.trans h' h

theorem KeptBut.sameBut {c : List Piece} {s t : State} (h : KeptBut c s t) : SameBut c s t := fun p hp => (h p hp).same

theorem KeptBut.mono {c d : List Piece} {s t : State} (h : KeptBut c s t) (hcd : c ⊆ d) : KeptBut d s t :=
  fun p hp => h p fun hc => hp (hcd hc)

theorem KeptBut.trans {c d : List Piece} {s t u : State} (h : KeptBut c s t) (h' : KeptBut d t u) :
    KeptBut (c ++ d) s u := fun p hp =>
  (h p fun hc => hp (List.mem_append_left _ hc)).trans (h' p fun hd => hp (List.mem_append_right _ hd))

/-! ### What each state operation writes -/

theorem keptBut_setReg (s : State) (x : RegIdx) (b : Byte) : KeptBut [.regs] s (s.setReg x b) := by
  intro p hp; cases p <;> simp [Kept] at hp ⊢

theorem keptBut_setResultAndFlag (s : State) (x : RegIdx) (b : Byte) (f : Bool) :
    KeptBut [.regs] s (s.setResultAndFlag x b f) := by
  intro p hp; cases p <;> simp [Kept] at hp ⊢

theorem keptBut_setRegsFrom (s : State) (bs : List Byte) : KeptBut [.regs] s (s.setRegsFrom bs) := by
  intro p hp; cases p <;> simp [Kept] at hp ⊢

theorem keptBut_setI (s : State) (w : Word) : KeptBut [.index] s (s.setI w) := by
  intro p hp; cases p <;> simp [Kept] at hp ⊢

theorem keptBut_setPc (s : State) (w : Word) : KeptBut [.pc] s (s.setPc w) := by
  intro p hp; cases p <;> simp [Kept] at hp ⊢

theorem keptBut_setDelay (s : State) (b : Byte) : KeptBut [.delay] s (s.setDelay b) := by
  intro p hp; cases p <;> simp [Kept] at hp ⊢

theorem keptBut_setSound (s : State) (b : Byte) : KeptBut [.sound] s (s.setSound b) := by
  intro p hp; cases p <;> simp [Kept] at hp ⊢

theorem keptBut_setMem (s : State) (m : Memory) : KeptBut [.mem] s (s.setMem m) := by
  intro p hp; cases p <;> simp [Kept] at hp ⊢

theorem keptBut_setFb (s : State) (f : Framebuffer) : KeptBut [.screen] s (s.setFb f) := by
  intro p hp; cases p <;> simp [Kept] at hp ⊢

theorem keptBut_push (s : State) (w : Word) (h : s.sp.val < 16) : KeptBut [.stack] s (s.push w h) := by
  intro p hp; cases p <;> simp [Kept] at hp ⊢

theorem keptBut_pop (s : State) : KeptBut [.stack] s s.pop := by
  intro p hp; cases p <;> simp [Kept] at hp ⊢

theorem keptBut_tookKey (s : State) : KeptBut [.keys] s s.tookKey := by
  intro p hp; cases p <;> simp [Kept] at hp ⊢

theorem keptBut_tookRand (s : State) : KeptBut [.rand] s s.tookRand := by
  intro p hp; cases p <;> simp [Kept] at hp ⊢

/-- `signal` is no piece, so returning it changes none. -/
theorem KeptBut.emit {c : List Piece} {s t : State} (h : KeptBut c s t) (sig : Signal) : KeptBut c s (t.emit sig) := by
  intro p hp
  have hemit : Kept t (t.emit sig) p := by cases p <;> simp [Kept]
  exact (h p hp).trans hemit

theorem keptBut_haltAt (s : State) (e : ErrorRecord) : KeptBut [.pc, .status] s (s.haltAt e) := by
  intro p hp; cases p <;> simp [Kept] at hp ⊢

theorem keptBut_timerCheck (s : State) : KeptBut [.delay, .sound, .ticks] s (timerCheck s) := by
  intro p hp; cases p <;> simp [Kept] at hp ⊢

/-! ### What each instruction writes -/

/-- The pieces that an instruction may write, in the order in which it writes them. -/
def writtenPieces : Instr → List Piece
  | .clear => [.screen]
  | .draw _ _ _ => [.screen, .regs]
  | .gotoSub _ | .returnSub => [.stack, .pc]
  | .jump _ | .jumpWithOffset _ => [.pc]
  | .skipEqual _ _ | .skipNotEqual _ _ | .skipVXEqualVY _ _ _ | .skipVXNotEqualVY _ _ _ => [.pc]
  | .skipIfKey _ | .skipIfNotKey _ => [.keys, .pc]
  | .getKey _ => [.keys, .regs, .pc]
  | .setVX _ _ | .addVX _ _ | .move _ _ | .or _ _ | .and _ _ | .xor _ _ | .getDT _ => [.regs]
  | .addReg _ _ | .subVYFromVX _ _ | .subVXFromVY _ _ | .shiftRight _ _ | .shiftLeft _ _ => [.regs]
  | .random _ _ => [.rand, .regs]
  | .setI _ | .fontChar _ => [.index]
  | .addI _ => [.index, .regs]
  | .setDT _ => [.delay]
  | .setST _ => [.sound]
  | .bcdConvert _ | .storeRegs _ => [.mem]
  | .loadRegs _ => [.regs]

/-- When an instruction raises, and the kind and the info that it raises with (60_exceptions.md R240, R244). An
instruction that is not listed never raises. -/
def RaiseCause (s : State) (kind : ErrorKind) (info : Option Nat) : Instr → Prop
  | .gotoSub _ => s.sp.val = 16 ∧ kind = .stackOverflow ∧ info = none
  | .returnSub => s.sp.val = 0 ∧ kind = .stackUnderflow ∧ info = none
  | .draw _ _ n => ¬BlockFits s n.toNat ∧ kind = .addressOutOfRange
  | .bcdConvert _ => ¬BlockFits s 3 ∧ kind = .addressOutOfRange
  | .storeRegs x | .loadRegs x => ¬BlockFits s (x.toNat + 1) ∧ kind = .addressOutOfRange
  | _ => False

/-- The answer completes, and only the listed pieces were written. -/
def CompletesWithin (c : List Piece) (s : State) (r : Result) : Prop := ∃ t sig, r = complete sig t ∧ KeptBut c s t

/-- The answer is the error of the instruction `i`, raised for a listed cause. -/
def RaisesFor (i : Instr) (s : State) (r : Result) : Prop :=
  ∃ kind info, r = raise kind info (encodeWord i) s ∧ RaiseCause s kind info i

/-- ALL that executing an instruction can be: it completes and writes no piece but its own, or it raises for a listed
cause. -/
theorem exec_completesWithin_or_raisesFor (i : Instr) (s : State) :
    CompletesWithin (writtenPieces i) s (exec i s) ∨ RaisesFor i s (exec i s) := by
  cases i with
  | gotoSub nnn =>
    by_cases h : s.sp.val < 16
    · exact .inl ⟨_, _, exec_gotoSub_of_lt nnn h, (keptBut_push s _ h).trans (keptBut_setPc _ _)⟩
    · have hfull : s.sp.val = 16 := by omega
      exact .inr ⟨_, _, exec_gotoSub_of_full nnn hfull, hfull, rfl, rfl⟩
  | returnSub =>
    by_cases h : 0 < s.sp.val
    · exact .inl ⟨_, _, exec_returnSub_of_pos h, (keptBut_pop s).trans (keptBut_setPc _ _)⟩
    · have hempty : s.sp.val = 0 := by omega
      exact .inr ⟨_, _, exec_returnSub_of_empty hempty, hempty, rfl, rfl⟩
  | draw x y n =>
    by_cases h : BlockFits s n.toNat
    · exact .inl ⟨_, _, exec_draw_of_blockFits x y h, (keptBut_setFb s _).trans (keptBut_setReg _ _ _)⟩
    · exact .inr ⟨_, _, exec_draw_of_not_blockFits x y h, h, rfl⟩
  | bcdConvert x =>
    by_cases h : BlockFits s 3
    · exact .inl ⟨_, _, exec_bcdConvert_of_blockFits x h, keptBut_setMem s _⟩
    · exact .inr ⟨_, _, exec_bcdConvert_of_not_blockFits x h, h, rfl⟩
  | storeRegs x =>
    by_cases h : BlockFits s (x.toNat + 1)
    · exact .inl ⟨_, _, exec_storeRegs_of_blockFits h, keptBut_setMem s _⟩
    · exact .inr ⟨_, _, exec_storeRegs_of_not_blockFits h, h, rfl⟩
  | loadRegs x =>
    by_cases h : BlockFits s (x.toNat + 1)
    · exact .inl ⟨_, _, exec_loadRegs_of_blockFits h, keptBut_setRegsFrom s _⟩
    · exact .inr ⟨_, _, exec_loadRegs_of_not_blockFits h, h, rfl⟩
  | clear => exact .inl ⟨_, _, rfl, keptBut_setFb s _⟩
  | jump | jumpWithOffset | skipEqual | skipNotEqual | skipVXEqualVY | skipVXNotEqualVY =>
    exact .inl ⟨_, _, rfl, keptBut_setPc s _⟩
  | skipIfKey | skipIfNotKey => exact .inl ⟨_, _, rfl, (keptBut_tookKey s).trans (keptBut_setPc _ _)⟩
  | getKey =>
    exact .inl ⟨_, _, rfl, (keptBut_tookKey s).trans ((keptBut_setReg _ _ _).trans (keptBut_setPc _ _))⟩
  | setVX | addVX | move | or | and | xor | getDT => exact .inl ⟨_, _, rfl, keptBut_setReg s _ _⟩
  | addReg | subVYFromVX | subVXFromVY | shiftRight | shiftLeft =>
    exact .inl ⟨_, _, rfl, keptBut_setResultAndFlag s _ _ _⟩
  | random => exact .inl ⟨_, _, rfl, (keptBut_tookRand s).trans (keptBut_setReg _ _ _)⟩
  | setI | fontChar => exact .inl ⟨_, _, rfl, keptBut_setI s _⟩
  | addI x => exact .inl ⟨_, _, exec_addI x s, (keptBut_setI s _).trans (keptBut_setReg _ _ _)⟩
  | setDT => exact .inl ⟨_, _, rfl, keptBut_setDelay s _⟩
  | setST => exact .inl ⟨_, _, rfl, keptBut_setSound s _⟩

/-- No instruction writes the status or takes a TICK answer when it completes. -/
theorem status_not_mem_writtenPieces (i : Instr) : Piece.status ∉ writtenPieces i := by
  cases i <;> simp [writtenPieces]

theorem CompletesWithin.keptBut {c : List Piece} {s u : State} (h : CompletesWithin c s (.next u)) : KeptBut c s u := by
  obtain ⟨t, sig, ⟨⟩, hk⟩ := h
  exact hk.emit sig

/-- An instruction without a cause to raise writes no piece but its own. -/
theorem keptBut_of_exec {i : Instr} {s t : State} (h : exec i s = .next t)
    (hi : ∀ kind info, ¬RaiseCause s kind info i) : KeptBut (writtenPieces i) s t := by
  obtain hc | ⟨kind, info, -, hcause⟩ := exec_completesWithin_or_raisesFor i s
  · exact (h ▸ hc).keptBut
  · exact absurd hcause (hi kind info)

/-- Whatever state the core was in: if it still runs, the instruction wrote no piece but its own. -/
theorem keptBut_of_exec_running {i : Instr} {s t : State} (h : exec i s = .next t) (hrun : t.status = .running) :
    KeptBut (writtenPieces i) s t := by
  obtain hc | ⟨kind, info, hr, -⟩ := exec_completesWithin_or_raisesFor i s
  · exact (h ▸ hc).keptBut
  · cases h.symm.trans hr
    exact absurd hrun (State.haltAt_not_running s _)

theorem sameBut_of_exec {i : Instr} {c : List Piece} {s t : State} (h : exec i s = .next t)
    (hi : ∀ kind info, ¬RaiseCause s kind info i) (hc : writtenPieces i ⊆ c) : SameBut c s t :=
  ((keptBut_of_exec h hi).mono hc).sameBut

theorem sameButOrHalts_of_exec {i : Instr} {c : List Piece} {s t : State} (h : exec i s = .next t)
    (hc : writtenPieces i ⊆ c) : SameButOrHalts c s t := by
  obtain hw | ⟨kind, info, hr, -⟩ := exec_completesWithin_or_raisesFor i s
  · have hk := (h ▸ hw).keptBut
    exact sameButOrHalts_of_completes (hk.mono hc).sameBut (hk .status (status_not_mem_writtenPieces i))
  · cases h.symm.trans hr
    exact sameButOrHalts_haltAt c s _

end Sys2Proof.Machine
end

section
/-! The frames that the statements name, family by family (40_cycle.md R102). An instruction that cannot raise has `False`
for its `RaiseCause`. -/

namespace Sys2Proof.Machine

/-! ### Registers -/

theorem sameRegsBut_setReg (s : State) (x : RegIdx) (b : Byte) : SameRegsBut [x] s (s.setReg x b) :=
  fun _ hr => State.setReg_reg_other s b fun h => hr (h ▸ List.mem_singleton_self x)

theorem sameRegsBut_setResultAndFlag (s : State) (x : RegIdx) (b : Byte) (f : Bool) :
    SameRegsBut [x, 0xF] s (s.setResultAndFlag x b f) := by
  intro r hr
  simp only [List.mem_cons, List.not_mem_nil, or_false, not_or] at hr
  rw [State.setResultAndFlag_reg, if_neg (show r ≠ vf from hr.2), if_neg hr.1]

/-- Each instruction that writes Vx and nothing else completes with one write of Vx. -/
theorem exec_eq_setReg {i : Instr} {x y : RegIdx} {kk : Byte} (s : State)
    (hi : i ∈ [Instr.setVX x kk, .addVX x kk, .move x y, .or x y, .and x y, .xor x y, .getDT x]) :
    ∃ b, exec i s = complete .noSignal (s.setReg x b) := by
  simp only [List.mem_cons, List.not_mem_nil, or_false] at hi
  obtain rfl | rfl | rfl | rfl | rfl | rfl | rfl := hi <;> exact ⟨_, rfl⟩

/-- Each flag instruction completes with a write of Vx and then of VF. -/
theorem exec_eq_setResultAndFlag {i : Instr} {x y : RegIdx} (s : State)
    (hi : i ∈ [Instr.addReg x y, .subVYFromVX x y, .subVXFromVY x y, .shiftRight x y, .shiftLeft x y]) :
    ∃ b f, exec i s = complete .noSignal (s.setResultAndFlag x b f) := by
  simp only [List.mem_cons, List.not_mem_nil, or_false] at hi
  obtain rfl | rfl | rfl | rfl | rfl := hi <;> exact ⟨_, _, rfl⟩

/-- Settles O54: one write of Vx, or a write of Vx and one of VF, or a RAND byte and a write of Vx. -/
theorem registerInstructionsFrame : Obligations.RegisterInstructionsFrame := by
  refine fun i x y kk s t h => ⟨fun hi => ?result, ?random, fun hi => ?flag⟩
  case result =>
    obtain ⟨b, hb⟩ := exec_eq_setReg s hi
    cases h.symm.trans hb
    exact ⟨sameRegsBut_setReg s x b, ((keptBut_setReg s x b).emit _).sameBut⟩
  case random =>
    rintro rfl
    have hregs : SameRegsBut [x] s t := by cases h; exact sameRegsBut_setReg s.tookRand x _
    exact ⟨hregs, sameBut_of_exec h (fun _ _ hc => hc) (by simp [writtenPieces])⟩
  case flag =>
    obtain ⟨b, f, hb⟩ := exec_eq_setResultAndFlag s hi
    cases h.symm.trans hb
    exact ⟨sameRegsBut_setResultAndFlag s x b f, ((keptBut_setResultAndFlag s x b f).emit _).sameBut⟩

/-! ### Control and keys -/

theorem slot_of_gotoSub {nnn : Addr} {s t : State} (h : exec (.gotoSub nnn) s = .next t) (j : Fin 16)
    (hj : j.val ≠ s.sp.val) : t.stack[j] = s.stack[j] := by
  by_cases hsp : s.sp.val < 16
  · cases h.symm.trans (exec_gotoSub_of_lt nnn hsp)
    exact (State.push_slot s s.pc hsp j j.isLt).trans (if_neg hj)
  · cases h.symm.trans (exec_gotoSub_of_full nnn (by omega))
    rfl

/-- A pop reads its slot and keeps every slot (41_control.md R122). -/
theorem stack_of_returnSub {s t : State} (h : exec .returnSub s = .next t) : t.stack = s.stack := by
  by_cases hsp : 0 < s.sp.val
  · cases h.symm.trans (exec_returnSub_of_pos hsp)
    rfl
  · cases h.symm.trans (exec_returnSub_of_empty (by omega))
    rfl

/-- Settles O55: the pieces that each instruction writes, GetKey's one write of Vx, and the slots that a call and a return
leave. -/
theorem controlAndKeyInstructionsFrame : Obligations.ControlAndKeyInstructionsFrame := by
  refine fun i x y kk n nnn s t h => ⟨fun hi => ?jumps, fun hi => ?keySkips, ?getKey, fun hi => ?stack⟩
  case jumps =>
    simp only [List.mem_cons, List.not_mem_nil, or_false] at hi
    obtain rfl | rfl | rfl | rfl | rfl | rfl := hi <;> exact (keptBut_of_exec h fun _ _ hc => hc).sameBut
  case keySkips =>
    simp only [List.mem_cons, List.not_mem_nil, or_false] at hi
    obtain rfl | rfl := hi <;> exact sameBut_of_exec h (fun _ _ hc => hc) (by simp [writtenPieces])
  case getKey =>
    rintro rfl
    have hregs : SameRegsBut [x] s t := by cases h; exact sameRegsBut_setReg s.tookKey x _
    exact ⟨hregs, sameBut_of_exec h (fun _ _ hc => hc) (by simp [writtenPieces])⟩
  case stack =>
    simp only [List.mem_cons, List.not_mem_nil, or_false] at hi
    obtain rfl | rfl := hi
    · exact ⟨sameButOrHalts_of_exec h (by simp [writtenPieces]), slot_of_gotoSub h⟩
    · exact ⟨sameButOrHalts_of_exec h (by simp [writtenPieces]), fun j _ => congrArg (·[j]) (stack_of_returnSub h)⟩

/-! ### Index, timers, memory blocks and display -/

/-- Settles O56: the pieces that each instruction writes, and AddI's one write of a register, VF. -/
theorem indexAndTimerInstructionsFrame : Obligations.IndexAndTimerInstructionsFrame := by
  refine fun x nnn s t => ⟨fun h => ?setI, fun h => ?fontChar, fun h => ?addI, fun h => ?setDT, fun h => ?setST⟩
  case setI | fontChar | setDT | setST => exact (keptBut_of_exec h fun _ _ hc => hc).sameBut
  case addI =>
    have hregs : SameRegsBut [0xF] s t := by
      cases h.symm.trans (exec_addI x s)
      exact sameRegsBut_setReg (s.setI _) vf _
    exact ⟨hregs, (keptBut_of_exec h fun _ _ hc => hc).sameBut⟩

/-- An error stores nothing (D6). -/
theorem memOutside_of_raiseBadBlock {i : Instr} {s t : State} (h : raiseBadBlock i s = .next t) (n : Nat) :
    SameMemOutside s.regI.toNat n s t := by
  cases h
  exact fun _ _ => rfl

@[simp] theorem bcdDigits_length (b : Byte) : (bcdDigits b).length = 3 := rfl

@[simp] theorem regsUpTo_length (s : State) (x : RegIdx) : (s.regsUpTo x).length = x.toNat + 1 := by
  simp [State.regsUpTo]

/-- A block stored from `I` reaches no byte outside it. -/
theorem sameMemOutside_setMem_memWrite (s : State) (bs : List Byte) :
    SameMemOutside s.regI.toNat bs.length s (s.setMem (memWrite s.mem s.regI.toNat bs)) :=
  fun _ ha => memReadByte_memWrite_outside s.mem bs ha

theorem sameMemOutside_of_bcdConvert {x : RegIdx} {s t : State} (h : exec (.bcdConvert x) s = .next t) :
    SameMemOutside s.regI.toNat 3 s t := by
  by_cases hfits : BlockFits s 3
  · cases h.symm.trans (exec_bcdConvert_of_blockFits x hfits)
    exact sameMemOutside_setMem_memWrite s (bcdDigits (s.reg x))
  · exact memOutside_of_raiseBadBlock ((exec_bcdConvert_of_not_blockFits x hfits).symm.trans h) 3

theorem sameMemOutside_of_storeRegs {x : RegIdx} {s t : State} (h : exec (.storeRegs x) s = .next t) :
    SameMemOutside s.regI.toNat (x.toNat + 1) s t := by
  by_cases hfits : BlockFits s (x.toNat + 1)
  · cases h.symm.trans (exec_storeRegs_of_blockFits hfits)
    rw [← regsUpTo_length s x]
    exact sameMemOutside_setMem_memWrite s (s.regsUpTo x)
  · exact memOutside_of_raiseBadBlock ((exec_storeRegs_of_not_blockFits hfits).symm.trans h) _

/-- What a register reads after the bytes of a block were loaded into V0 and up. -/
theorem reg_setRegsFrom_memRead (s : State) (a n : Nat) (r : RegIdx) :
    (s.setRegsFrom (memRead s.mem a n)).reg r = if r.toNat < n then memReadByte s.mem (a + r.toNat) else s.reg r := by
  rw [State.setRegsFrom_reg]
  split_ifs with h
  · rw [List.getD_eq_getElem _ _ (by rwa [memRead_length]), memRead_getElem]
  · exact List.getD_eq_default _ _ (by rw [memRead_length]; omega)

theorem regsAbove_of_loadRegs {x : RegIdx} {s t : State} (h : exec (.loadRegs x) s = .next t) (r : RegIdx)
    (hr : x.toNat < r.toNat) : t.reg r = s.reg r := by
  by_cases hfits : BlockFits s (x.toNat + 1)
  · cases h.symm.trans (exec_loadRegs_of_blockFits hfits)
    rw [State.emit_reg, reg_setRegsFrom_memRead, if_neg (by omega)]
  · cases h.symm.trans (exec_loadRegs_of_not_blockFits hfits)
    rfl

/-- Settles O57: what each instruction stores or loads stays inside its block, and an error stores and loads nothing. -/
theorem memoryBlockInstructionsFrame : Obligations.MemoryBlockInstructionsFrame := fun _ _ _ =>
  ⟨fun h => ⟨sameMemOutside_of_bcdConvert h, sameButOrHalts_of_exec h (List.Subset.refl _)⟩,
    fun h => ⟨sameMemOutside_of_storeRegs h, sameButOrHalts_of_exec h (List.Subset.refl _)⟩,
    fun h => ⟨regsAbove_of_loadRegs h, sameButOrHalts_of_exec h (List.Subset.refl _)⟩⟩

theorem sameRegsBut_of_draw {x y : RegIdx} {n : Nibble} {s t : State} (h : exec (.draw x y n) s = .next t) :
    SameRegsBut [0xF] s t := by
  by_cases hfits : BlockFits s n.toNat
  · cases h.symm.trans (exec_draw_of_blockFits x y hfits)
    exact sameRegsBut_setReg (s.setFb _) vf _
  · cases h.symm.trans (exec_draw_of_not_blockFits x y hfits)
    exact fun _ _ => rfl

/-- Settles O58: the pieces that Clear and Draw write, and Draw's one write of a register, VF. -/
theorem displayInstructionsFrame : Obligations.DisplayInstructionsFrame := fun _ _ _ _ _ =>
  ⟨fun h => (keptBut_of_exec h fun _ _ hc => hc).sameBut,
    fun h => ⟨sameRegsBut_of_draw h, sameButOrHalts_of_exec h (by simp [writtenPieces])⟩⟩

end Sys2Proof.Machine
end

section
/-! What a step can do, with the instruction's own pieces and causes; and what every step keeps (40_cycle.md R109,
60_exceptions.md R240 to R244). -/

namespace Sys2Proof.Machine

/-! ### Fetch and execute -/

/-- Settles O20: `step_halted`. -/
theorem haltedCoreTakesNoStep : Obligations.HaltedCoreTakesNoStep := fun _ _ => step_halted

theorem fetchInfo_eq (pc : Word) (h : 0xFFE < pc.toNat) :
    (if pc = 0xFFF then 0x1000 else pc.toNat) = max pc.toNat 0x1000 := by
  split_ifs with heq
  · rw [heq]
    rfl
  · have hne : pc.toNat ≠ 0xFFF := fun hc => heq (BitVec.eq_of_toNat_eq hc)
    omega

/-- Settles O19: a failed fetch halts at `pc` itself. -/
theorem fetchOutsideMemoryHalts : Obligations.FetchOutsideMemoryHalts := by
  intro s hrun hpc
  rw [fetchInfo_eq s.pc hpc]
  exact step_badFetch hrun hpc

theorem decodeBytes_memRead_two (m : Memory) (a : Nat) :
    decodeBytes (memRead m a 2) = .ok (decodeWord (memReadWord m a), []) := rfl

/-- Executing an instruction always answers a next state. -/
theorem exec_next (i : Instr) (s : State) : ∃ u, exec i s = .next u := by
  obtain ⟨t, sig, h, -⟩ | ⟨kind, info, h, -⟩ := exec_completesWithin_or_raisesFor i s
  · exact ⟨_, h⟩
  · exact ⟨_, h⟩

/-- Settles O17: a good fetch executes what it decodes, and `finishCycle` ends the cycle by the status that leaves. -/
theorem stepRunsTheDecodedInstruction : Obligations.StepRunsTheDecodedInstruction := by
  intro s i hrun hpc hdecode
  have hi : decodeWord (fetchWord s) = .variant i := by
    rw [decodeBytes_memRead_two] at hdecode
    exact congrArg Prod.fst (Except.ok.inj hdecode)
  obtain ⟨u, hu⟩ := exec_next i (advance s)
  have hstep : step s = finishCycle (.next u) := by
    rw [step_goodFetch hrun hpc, hi, ← hu]
    rfl
  exact ⟨u, hu, fun h => hstep.trans (finishCycle_running h), fun _ h => hstep.trans (finishCycle_halted h)⟩

/-! ### A step that completes -/

/-- The pieces that executing the decoder's answer may write. -/
def writtenBy : Decoded → List Piece
  | .variant i => writtenPieces i
  | .noneWord | .errorFamily => []

theorem keptBut_of_execDecoded {w : Word} {d : Decoded} {s u : State} (h : execDecoded w d s = .next u)
    (hrun : u.status = .running) : KeptBut (writtenBy d) s u := by
  cases d with
  | variant i => exact keptBut_of_exec_running h hrun
  | noneWord =>
    cases h
    exact KeptBut.emit (fun p _ => Kept.refl s p) _
  | errorFamily =>
    cases h
    exact absurd hrun (State.haltAt_not_running s _)

/-- A step whose core still runs fetched inside memory, executed what it fetched, and took its timer check. -/
theorem step_running {s t : State} (h : step s = .next t) (hrun : t.status = .running) :
    s.pc.toNat ≤ 0xFFE ∧ ∃ u, execDecoded (fetchWord s) (decodeWord (fetchWord s)) (advance s) = .next u ∧
      u.status = .running ∧ u.tickChecks = s.tickChecks ∧ t = timerCheck u := by
  obtain ⟨-, ⟨-, rfl⟩ | hdone | ⟨-, w, kind, info, rfl, -, -⟩⟩ := step_cases h
  · exact absurd hrun (State.haltAt_not_running s _)
  · exact hdone
  · exact absurd hrun (State.haltAt_not_running s _)

/-! ### A step that ends in an error -/

theorem raiseCause_of_exec_eq_raise {i : Instr} {s : State} {w : Word} {kind : ErrorKind} {info : Option Nat}
    (h : exec i s = raise kind info w s) (hrun : s.status = .running) : RaiseCause s kind info i := by
  obtain ⟨t, sig, hc, hk⟩ | ⟨kind', info', hr, hcause⟩ := exec_completesWithin_or_raisesFor i s
  · have hstatus : t.status = s.status := hk .status (status_not_mem_writtenPieces i)
    have heq : t.emit sig = s.haltAt _ := Host.Outcome.next.inj (hc.symm.trans h)
    have hhalt : (t.emit sig).status = .running := hstatus.trans hrun
    rw [heq] at hhalt
    exact absurd hhalt (State.haltAt_not_running s _)
  · cases hr.symm.trans h
    exact hcause

/-- A step that halts leaves the state before the cycle with `status` alone changed; the fetch failed, or the fetched
instruction raised for a listed cause. -/
theorem step_error {s t : State} {err : ErrorRecord} (h : step s = .next t) (ht : t.status = .halted err) :
    t = s.haltAt err ∧ err.addr = s.pc ∧
      ((0xFFE < s.pc.toNat ∧ err.word = none ∧ err.kind = .addressOutOfRange) ∨
       (s.pc.toNat ≤ 0xFFE ∧ err.word = some (fetchWord s) ∧
          ∃ i, decodeWord (fetchWord s) = .variant i ∧ RaiseCause s err.kind err.info i)) := by
  obtain ⟨hrun, ⟨hpc, rfl⟩ | ⟨-, u, -, hu, -, rfl⟩ | ⟨hpc, w, kind, info, rfl, hexec, hw⟩⟩ := step_cases h
  · cases ht
    exact ⟨rfl, rfl, .inl ⟨hpc, rfl, rfl⟩⟩
  · exact absurd (hu.symm.trans ht) nofun
  · cases ht
    obtain ⟨i, hi, rfl⟩ | ⟨herr, -⟩ := hw
    · rw [hi] at hexec
      have hcause : RaiseCause (advance s) kind info i := raiseCause_of_exec_eq_raise hexec hrun
      exact ⟨rfl, rfl, .inr ⟨hpc, congrArg some (encodeWord_of_decodeWord hi), i, hi, hcause⟩⟩
    · exact absurd herr (decodeWord_ne_errorFamily _)

/-- Settles O21: the record's word is the encoding of the fetched instruction, which is the fetched word. -/
theorem errorsArePrecise : Obligations.ErrorsArePrecise := by
  intro s t err h ht
  obtain ⟨rfl, haddr, hword⟩ := step_error h ht
  refine ⟨by rw [State.haltAt, haddr], haddr, ?_⟩
  obtain ⟨hpc, hw, -⟩ | ⟨hpc, hw, -⟩ := hword
  · rw [hw, if_neg (by omega)]
  · rw [hw, if_pos hpc, fetchWord]

/-- Settles O22: the cause of each instruction's error, with the code of its kind. -/
theorem onlyTheListedErrorsAreRaised : Obligations.OnlyTheListedErrorsAreRaised := by
  intro s t err h ht
  obtain ⟨-, -, ⟨hpc, -, hkind⟩ | ⟨-, -, i, hi, hcause⟩⟩ := step_error h ht
  · exact .inl ⟨hpc, congrArg errorCode hkind⟩
  · refine .inr ⟨i, hi, ?_⟩
    cases i with
    | gotoSub | returnSub =>
      obtain ⟨hsp, hkind, hinfo⟩ := hcause
      exact ⟨hsp, congrArg errorCode hkind, hinfo⟩
    | draw | bcdConvert | storeRegs | loadRegs =>
      obtain ⟨hblock, hkind⟩ := hcause
      exact ⟨hblock, congrArg errorCode hkind⟩
    | _ => exact hcause

/-! ### The pieces that a step touches -/

/-- Over a whole step only the cycle's own pieces and those of the executed instruction may change. -/
theorem keptBut_of_step {s t : State} (h : step s = .next t) :
    KeptBut (.pc :: .status :: .delay :: .sound :: .ticks :: writtenBy (decodeWord (fetchWord s))) s t := by
  cases ht : t.status with
  | running =>
    obtain ⟨-, u, hu, hrun, -, rfl⟩ := step_running h ht
    refine ((keptBut_setPc s _).trans ((keptBut_of_execDecoded hu hrun).trans (keptBut_timerCheck u))).mono ?_
    intro p hp
    simp only [List.mem_append, List.mem_cons, List.not_mem_nil, or_false] at hp ⊢
    tauto
  | halted err =>
    obtain ⟨rfl, -⟩ := step_error h ht
    exact (keptBut_haltAt s err).mono (by simp)

/-- A piece outside the cycle's own that differs after a step was written by the instruction that the step executed. -/
theorem exists_writer_of_not_same {s t : State} {p : Piece} (h : step s = .next t) (hdiff : ¬Same s t p)
    (hp : p ∉ [Piece.pc, .status, .delay, .sound, .ticks]) :
    ∃ i, decodeWord (memReadWord s.mem s.pc.toNat) = .variant i ∧ p ∈ writtenPieces i := by
  rw [← fetchWord]
  have hmem : p ∈ writtenBy (decodeWord (fetchWord s)) := by
    by_contra hnot
    have hout : p ∉ [Piece.pc, .status, .delay, .sound, .ticks] ++ writtenBy (decodeWord (fetchWord s)) := fun hc =>
      (List.mem_append.1 hc).elim hp hnot
    exact hdiff (keptBut_of_step h p hout).same
  cases hd : decodeWord (fetchWord s) with
  | variant i => exact ⟨i, rfl, by rwa [hd] at hmem⟩
  | noneWord | errorFamily => rw [hd] at hmem; cases hmem

/-! Which instructions write a piece, read off `writtenPieces`. -/

theorem writers_of_mem {i : Instr} (h : .mem ∈ writtenPieces i) :
    ∃ x, Decoded.variant i ∈ [Decoded.variant (.bcdConvert x), .variant (.storeRegs x)] := by
  cases i <;> simp [writtenPieces] at h ⊢

theorem writers_of_screen {i : Instr} (h : .screen ∈ writtenPieces i) :
    ∃ x y n, Decoded.variant i ∈ [Decoded.variant .clear, .variant (.draw x y n)] := by
  cases i <;> simp [writtenPieces] at h ⊢

theorem writers_of_stack {i : Instr} (h : .stack ∈ writtenPieces i) :
    ∃ nnn, Decoded.variant i ∈ [Decoded.variant (.gotoSub nnn), .variant .returnSub] := by
  cases i <;> simp [writtenPieces] at h ⊢

theorem writers_of_index {i : Instr} (h : .index ∈ writtenPieces i) :
    ∃ x nnn, Decoded.variant i ∈ [Decoded.variant (.setI nnn), .variant (.addI x), .variant (.fontChar x)] := by
  cases i <;> simp [writtenPieces] at h ⊢

theorem writers_of_keys {i : Instr} (h : .keys ∈ writtenPieces i) :
    ∃ x, Decoded.variant i ∈ [Decoded.variant (.skipIfKey x), .variant (.skipIfNotKey x), .variant (.getKey x)] := by
  cases i <;> simp [writtenPieces] at h ⊢

theorem writers_of_rand {i : Instr} (h : .rand ∈ writtenPieces i) :
    ∃ x kk, Decoded.variant i = .variant (.random x kk) := by
  cases i <;> simp [writtenPieces] at h ⊢

/-- Settles O59: a piece that differs was written by the executed instruction, and `writtenPieces` names the writers. -/
theorem onlyNamedInstructionsTouchEachPiece : Obligations.OnlyNamedInstructionsTouchEachPiece := by
  intro s t h
  have writer (p) (hp) (hdiff : ¬Same s t p) := exists_writer_of_not_same h hdiff hp
  refine ⟨fun hd => ?mem, fun hd => ?screen, fun hd => ?stack, fun hd => ?index, fun hd => ?keys, fun hd => ?rand⟩
  case mem => obtain ⟨i, hi, hw⟩ := writer .mem (by decide) hd; exact hi ▸ writers_of_mem hw
  case screen => obtain ⟨i, hi, hw⟩ := writer .screen (by decide) hd; exact hi ▸ writers_of_screen hw
  case stack => obtain ⟨i, hi, hw⟩ := writer .stack (by decide) hd; exact hi ▸ writers_of_stack hw
  case index => obtain ⟨i, hi, hw⟩ := writer .index (by decide) hd; exact hi ▸ writers_of_index hw
  case keys => obtain ⟨i, hi, hw⟩ := writer .keys (by decide) hd; exact hi ▸ writers_of_keys hw
  case rand => obtain ⟨i, hi, hw⟩ := writer .rand (by decide) hd; exact hi ▸ writers_of_rand hw

end Sys2Proof.Machine
end

section
/-! The timers over a whole step (40_cycle.md R107, 60_exceptions.md R255). -/

namespace Sys2Proof.Machine

/-- The value of DT before the timer check of a cycle whose decoder answered `d`. -/
def delayBeforeCheck (s : State) (d : Decoded) : Nat :=
  match d with
  | .variant (.setDT x) => (s.reg x).toNat
  | _ => s.dt.toNat

/-- The value of ST before the timer check of a cycle whose decoder answered `d`. -/
def soundBeforeCheck (s : State) (d : Decoded) : Nat :=
  match d with
  | .variant (.setST x) => (s.reg x).toNat
  | _ => s.st.toNat

/-- SetDT is the one instruction that writes DT. -/
theorem dt_of_execDecoded {w : Word} {d : Decoded} {s u : State} (h : execDecoded w d s = .next u)
    (hrun : u.status = .running) : u.dt.toNat = delayBeforeCheck s d := by
  have hkept (hd : .delay ∉ writtenBy d) : u.dt.toNat = s.dt.toNat :=
    congrArg BitVec.toNat (keptBut_of_execDecoded h hrun .delay hd)
  cases d with
  | variant i =>
    cases i with
    | setDT x =>
      cases h
      rfl
    | _ => exact hkept (by simp [writtenBy, writtenPieces])
  | noneWord | errorFamily => exact hkept (by simp [writtenBy])

/-- SetST is the one instruction that writes ST. -/
theorem st_of_execDecoded {w : Word} {d : Decoded} {s u : State} (h : execDecoded w d s = .next u)
    (hrun : u.status = .running) : u.st.toNat = soundBeforeCheck s d := by
  have hkept (hd : .sound ∉ writtenBy d) : u.st.toNat = s.st.toNat :=
    congrArg BitVec.toNat (keptBut_of_execDecoded h hrun .sound hd)
  cases d with
  | variant i =>
    cases i with
    | setST x =>
      cases h
      rfl
    | _ => exact hkept (by simp [writtenBy, writtenPieces])
  | noneWord | errorFamily => exact hkept (by simp [writtenBy])

theorem countdownWhen_toNat (fires : Bool) (b : Byte) :
    (if fires then countdown b else b).toNat = b.toNat - (if fires then 1 else 0) := by
  cases fires with
  | true => exact countdown_toNat b
  | false => rfl

/-- Settles O24: the timer check of a completed cycle counts down what the instruction left; an error cycle has none. -/
theorem timersCountDownAtTicksOnly : Obligations.TimersCountDownAtTicksOnly := by
  refine fun s t h => ⟨fun hrun => ?completed, fun err ht => ?error⟩
  case completed =>
    obtain ⟨-, u, hu, hrunU, hticks, rfl⟩ := step_running h hrun
    rw [timerCheck_tickChecks, timerCheck_dt, timerCheck_st, countdownWhen_toNat, countdownWhen_toNat, hticks,
      dt_of_execDecoded hu hrunU, st_of_execDecoded hu hrunU]
    exact ⟨rfl, rfl, rfl⟩
  case error =>
    obtain ⟨rfl, -⟩ := step_error h ht
    exact ⟨rfl, rfl, rfl⟩

end Sys2Proof.Machine
end

section
/-! The program counter after a completed cycle (10_state.md R26). -/

namespace Sys2Proof.Machine

theorem advance_twice (p : Word) : p + 2 + 2 = p + 4 := BitVec.add_assoc p 2 2

/-- Past the skipped word, or past the instruction. -/
theorem skipWhen_advance_pc (c : Bool) (s : State) :
    (skipWhen c (advance s)).pc = if c = true then s.pc + 4 else s.pc + 2 := by
  rw [skipWhen_pc, advance_pc, advance_twice]

/-- A key skip takes its answer first, which leaves `pc` alone. -/
theorem skipWhen_tookKey_advance_pc (c : Bool) (s : State) :
    (skipWhen c (advance s).tookKey).pc = if c = true then s.pc + 4 else s.pc + 2 := skipWhen_advance_pc c s

theorem keyPc_advance (k : Option Key) (p : Word) : keyPc k (p + 2) = if k = none then p else p + 2 := by
  cases k with
  | some c => rfl
  | none => exact BitVec.add_sub_cancel p 2

theorem top_eq_getD (s : State) (h : 0 < s.sp.val) : s.top h = s.stack.toList.getD (s.sp.val - 1) 0 := by
  have hlt : s.sp.val - 1 < s.stack.toList.length := by
    rw [Vector.length_toList]
    omega
  rw [List.getD_eq_getElem _ _ hlt, Vector.getElem_toList, State.top]

/-- Executed in the advanced state, an instruction that completes leaves `pc` as the table says. -/
theorem pc_of_exec_advance {i : Instr} {s u : State} (h : exec i (advance s) = .next u) (hrun : u.status = .running) :
    u.pc = pcAfter s i := by
  cases i with
  | jump | jumpWithOffset =>
    cases h
    rfl
  | gotoSub nnn =>
    by_cases hsp : s.sp.val < 16
    · cases h.symm.trans (exec_gotoSub_of_lt nnn (s := advance s) hsp)
      rfl
    · cases h.symm.trans (exec_gotoSub_of_full nnn (s := advance s) (show s.sp.val = 16 by omega))
      exact absurd hrun (State.haltAt_not_running _ _)
  | returnSub =>
    by_cases hsp : 0 < s.sp.val
    · cases h.symm.trans (exec_returnSub_of_pos (s := advance s) hsp)
      exact top_eq_getD s hsp
    · cases h.symm.trans (exec_returnSub_of_empty (s := advance s) (show s.sp.val = 0 by omega))
      exact absurd hrun (State.haltAt_not_running _ _)
  | skipEqual | skipVXEqualVY =>
    cases h
    simp only [State.emit_pc, skipWhen_advance_pc, beq_iff_eq, advance_reg, pcAfter]
  | skipNotEqual | skipVXNotEqualVY =>
    cases h
    simp only [State.emit_pc, skipWhen_advance_pc, bne_iff_ne, advance_reg, pcAfter]
  | skipIfKey =>
    cases h
    exact skipWhen_tookKey_advance_pc _ s
  | skipIfNotKey =>
    cases h
    refine (skipWhen_tookKey_advance_pc _ s).trans ?_
    simp only [Bool.not_eq_true', pcAfter]
    rfl
  | getKey =>
    cases h
    exact keyPc_advance _ s.pc
  | _ => exact keptBut_of_exec_running h hrun .pc (by simp [writtenPieces])

/-- Settles O25: the executed instruction leaves `pc` as tabled, and the timer check keeps it. -/
theorem pcAfterEachInstructionIsAsTabled : Obligations.PcAfterEachInstructionIsAsTabled := by
  intro s t i h hrun hi
  obtain ⟨-, u, hu, hrunU, -, rfl⟩ := step_running h hrun
  rw [fetchWord, hi] at hu
  have hpc : u.pc = pcAfter s i := pc_of_exec_advance hu hrunU
  exact hpc

end Sys2Proof.Machine
end

section
/-! The invariant, clause by clause (10_state.md R25, R36; 41_control.md R121; 60_exceptions.md R243). -/

namespace Sys2Proof.Machine

@[simp] theorem zextByte_toNat (b : Byte) : (zextByte b).toNat = b.toNat := BitVec.toNat_setWidth_of_le (by decide)

/-- No jump is reduced: the sum of a 12-bit and an 8-bit number fits a word (41_control.md R128). -/
theorem offsetTarget_toNat (nnn : Addr) (b : Byte) : (zextAddr nnn + zextByte b).toNat = nnn.toNat + b.toNat := by
  rw [BitVec.toNat_add, zextAddr_toNat, zextByte_toNat]
  omega

/-- The advance of a `pc` that was fetched at does not wrap. -/
theorem pc_add_two_toNat {p : Word} (h : p.toNat ≤ 0xFFE) : (p + 2).toNat = p.toNat + 2 :=
  BitVec.toNat_add_of_lt (show p.toNat + 2 < 2 ^ 16 by omega)

theorem pc_add_four_toNat {p : Word} (h : p.toNat ≤ 0xFFE) : (p + 4).toNat = p.toNat + 4 :=
  BitVec.toNat_add_of_lt (show p.toNat + 4 < 2 ^ 16 by omega)

/-- The bound of `pc` holds at each entry of the table: the largest is 0xFFF + 0xFF, by JumpWithOffset. -/
theorem pcAfter_toNat_le {s : State} (hpc : s.pc.toNat ≤ 0xFFE) (hslots : ∀ j : Fin 16, (s.stack[j]).toNat ≤ 0x1000)
    (i : Instr) : (pcAfter s i).toNat ≤ 0x10FE := by
  have hself : s.pc.toNat ≤ 0x10FE := by omega
  have hnext : (s.pc + 2).toNat ≤ 0x10FE := by rw [pc_add_two_toNat hpc]; omega
  have hskip : (s.pc + 4).toNat ≤ 0x10FE := by rw [pc_add_four_toNat hpc]; omega
  cases i with
  | jump nnn | gotoSub nnn =>
    have htarget : (pcAfter s (.jump nnn)).toNat ≤ 0xFFF := zextAddr_toNat_le nnn
    exact htarget.trans (by decide)
  | jumpWithOffset nnn =>
    have htarget : (pcAfter s (.jumpWithOffset nnn)).toNat = _ := offsetTarget_toNat nnn (s.reg 0)
    omega
  | returnSub =>
    have hlt : s.sp.val - 1 < 16 := by omega
    have htop : pcAfter s .returnSub = s.stack[s.sp.val - 1] := by
      rw [pcAfter, List.getD_eq_getElem _ _ (by rwa [Vector.length_toList]), Vector.getElem_toList]
    rw [htop]
    exact (hslots ⟨_, hlt⟩).trans (by decide)
  | skipEqual | skipNotEqual | skipVXEqualVY | skipVXNotEqualVY | skipIfKey | skipIfNotKey =>
    rw [pcAfter]
    split_ifs
    · exact hskip
    · exact hnext
  | getKey =>
    rw [pcAfter]
    split_ifs
    · exact hself
    · exact hnext
  | _ => exact hnext

/-- Two instructions write memory, each by one store, which keeps the canonical form. -/
theorem memory_wf_of_exec {i : Instr} {s u : State} (h : exec i s = .next u) (hrun : u.status = .running)
    (hm : Memory.wf s.mem) : Memory.wf u.mem := by
  have hkept (hi : .mem ∉ writtenPieces i) : Memory.wf u.mem := by
    have hmem : u.mem = s.mem := keptBut_of_exec_running h hrun .mem hi
    rwa [hmem]
  cases i with
  | bcdConvert x =>
    by_cases hfits : BlockFits s 3
    · cases h.symm.trans (exec_bcdConvert_of_blockFits x hfits)
      exact memWrite_wf hm _ _
    · cases h.symm.trans (exec_bcdConvert_of_not_blockFits x hfits)
      exact hm
  | storeRegs x =>
    by_cases hfits : BlockFits s (x.toNat + 1)
    · cases h.symm.trans (exec_storeRegs_of_blockFits hfits)
      exact memWrite_wf hm _ _
    · cases h.symm.trans (exec_storeRegs_of_not_blockFits hfits)
      exact hm
  | _ => exact hkept (by simp [writtenPieces])

/-- A call pushes the advanced `pc`, and a return writes no slot. -/
theorem slots_of_exec {i : Instr} {s u : State} (h : exec i s = .next u) (hrun : u.status = .running)
    (hpc : s.pc.toNat ≤ 0x1000) (hslots : ∀ j : Fin 16, (s.stack[j]).toNat ≤ 0x1000) (j : Fin 16) :
    (u.stack[j]).toNat ≤ 0x1000 := by
  have hsame (hstack : u.stack = s.stack) : (u.stack[j]).toNat ≤ 0x1000 := by
    rw [hstack]
    exact hslots j
  cases i with
  | gotoSub nnn =>
    by_cases hsp : s.sp.val < 16
    · cases h.symm.trans (exec_gotoSub_of_lt nnn hsp)
      have hslot : ((s.push s.pc hsp).stack[j]) = if j.val = s.sp.val then s.pc else s.stack[j] :=
        State.push_slot s s.pc hsp j j.isLt
      change ((s.push s.pc hsp).stack[j]).toNat ≤ 0x1000
      rw [hslot]
      split_ifs
      · exact hpc
      · exact hslots j
    · cases h.symm.trans (exec_gotoSub_of_full nnn (show s.sp.val = 16 by omega))
      exact hslots j
  | returnSub => exact hsame (stack_of_returnSub h)
  | _ => exact hsame (keptBut_of_exec_running h hrun .stack (by simp [writtenPieces])).2

/-- What executing the fetched word leaves, before the timer check, meets the invariant. -/
theorem inv_of_execDecoded {w : Word} {d : Decoded} {s u : State} (hs : Inv s) (hpc : s.pc.toNat ≤ 0xFFE)
    (h : execDecoded w d (advance s) = .next u) (hrun : u.status = .running) : Inv u := by
  have hnext : (s.pc + 2).toNat ≤ 0x1000 := by rw [pc_add_two_toNat hpc]; omega
  have hnohalt (err : ErrorRecord) (he : u.status = .halted err) : err.addr = u.pc :=
    absurd (hrun.symm.trans he) nofun
  cases d with
  | variant i =>
    have hcounter : u.pc.toNat ≤ 0x10FE := by
      rw [pc_of_exec_advance h hrun]
      exact pcAfter_toNat_le hpc hs.slots i
    exact ⟨memory_wf_of_exec h hrun hs.memory, hcounter, slots_of_exec h hrun hnext hs.slots, hnohalt⟩
  | noneWord =>
    cases h
    exact ⟨hs.memory, hnext.trans (by decide), hs.slots, hnohalt⟩
  | errorFamily =>
    cases h
    exact absurd hrun (State.haltAt_not_running _ _)

/-- An error whose record names `pc` keeps the invariant. -/
theorem inv_haltAt {s : State} {err : ErrorRecord} (hs : Inv s) (haddr : err.addr = s.pc) : Inv (s.haltAt err) where
  memory := hs.memory
  counter := by
    rw [State.haltAt_pc, haddr]
    exact hs.counter
  slots := hs.slots
  halted _ h := by
    cases h
    rfl

theorem inv_timerCheck {s : State} (hs : Inv s) : Inv (timerCheck s) := ⟨hs.memory, hs.counter, hs.slots, hs.halted⟩

/-- Settles O23: a step that completes executes and checks the timers, and a step that halts only enters its error. -/
theorem everyStepKeepsTheInvariant : Obligations.EveryStepKeepsTheInvariant := by
  intro s t hs h
  cases ht : t.status with
  | running =>
    obtain ⟨hpc, u, hu, hrun, -, rfl⟩ := step_running h ht
    exact inv_timerCheck (inv_of_execDecoded hs hpc hu hrun)
  | halted err =>
    obtain ⟨rfl, haddr, -⟩ := step_error h ht
    exact inv_haltAt hs haddr

end Sys2Proof.Machine
end

section
/-! The jump with offset, the call and the return (41_control.md R121, R122, R128). -/

namespace Sys2Proof.Machine

/-- Settles O29: family B of the decoder, and the sum of target and V0. -/
theorem jumpWithOffsetAddsV0 : Obligations.JumpWithOffsetAddsV0 := by
  refine ⟨decodesAs_maskA rfl fun _ => decodeWord_of_opB, fun nnn s => ?_⟩
  have hpc := offsetTarget_toNat nnn (s.reg 0)
  exact ⟨_, exec_jumpWithOffset nnn s, hpc, hpc.trans_le (by omega), fun _ => rfl, rfl, rfl⟩

/-- Settles O30: family 2 of the decoder; a call with a free slot, and one with a full stack. -/
theorem gotoSubPushesTheReturnAddress : Obligations.GotoSubPushesTheReturnAddress := by
  refine ⟨decodesAs_maskA rfl fun _ => decodeWord_of_op2, fun nnn s hsp => ?free, fun nnn s hsp => ?full⟩
  case free =>
    have hslot (j : Fin 16) (hj : j.val = s.sp.val) : (s.push s.pc hsp).stack[j] = s.pc :=
      (State.push_slot s s.pc hsp j j.isLt).trans (if_pos hj)
    exact ⟨_, exec_gotoSub_of_lt nnn hsp, hslot, rfl, zextAddr_toNat nnn, fun _ => rfl, rfl, rfl⟩
  case full => exact ⟨_, _, exec_gotoSub_of_full nnn hsp, rfl, rfl, rfl, rfl, rfl, fun _ => rfl⟩

/-- Settles O31: the row of ReturnSub in the decoder; a return with a pushed slot, and one with an empty stack. -/
theorem returnSubPopsTheReturnAddress : Obligations.ReturnSubPopsTheReturnAddress := by
  refine ⟨decodesAs_wholeWord rfl, fun s j hsp => ?pushed, fun s hsp => exec_returnSub_of_empty hsp⟩
  case pushed =>
    have hpos : 0 < s.sp.val := by omega
    have hslot : s.top hpos = s.stack[j] := by simp only [State.top, hsp, Nat.add_sub_cancel, Fin.getElem_fin]
    have hdepth : s.sp.val - 1 = j.val := by omega
    exact ⟨_, exec_returnSub_of_pos hpos, hslot, hdepth, rfl, fun _ => rfl, rfl, rfl⟩

end Sys2Proof.Machine
end

section
/-! The key instructions, for every answer of the KEY oracle (42_keys.md R140 to R143). -/

namespace Sys2Proof.Machine

@[simp] theorem keyByte_toNat (c : Key) : (keyByte c).toNat = c.toNat := BitVec.toNat_setWidth_of_le (by decide)

/-- The code of a key is compared with the whole of Vx (D33). -/
theorem keyEquals_some (c : Key) (b : Byte) : keyEquals (some c) b = decide (c.toNat = b.toNat) := by
  rw [Bool.eq_iff_iff, decide_eq_true_iff, ← keyByte_toNat, BitVec.toNat_inj]
  exact beq_iff_eq

/-- Settles O34: family E of the decoder at two selectors, and a skip on the answer, which is no key or the code of one. -/
theorem keySkipsCompareTheKeyWithVx : Obligations.KeySkipsCompareTheKeyWithVx := by
  refine ⟨decodesAs_maskXS rfl fun _ => decodeWord_of_opE, decodesAs_maskXS rfl fun _ => decodeWord_of_opE,
    fun x s => ⟨⟨_, exec_skipIfKey x s, ?ifKey, rfl, fun _ => rfl, rfl, rfl⟩,
      ⟨_, exec_skipIfNotKey x s, ?ifNotKey, rfl, fun _ => rfl, rfl, rfl⟩⟩⟩
  case ifKey =>
    cases Config.key s.keyQueries with
    | none => rfl
    | some c => simp only [State.emit_pc, skipWhen_pc, keyEquals_some, decide_eq_true_eq, State.tookKey_pc]
  case ifNotKey =>
    cases Config.key s.keyQueries with
    | none => rfl
    | some c =>
      simp only [State.emit_pc, skipWhen_pc, keyEquals_some, Bool.not_eq_true', decide_eq_false_iff_not, ite_not,
        State.tookKey_pc]

/-- Settles O35: family F of the decoder, and one write of Vx with the key's code, or with Vx itself while it waits. -/
theorem getKeyStoresTheKeyOrWaits : Obligations.GetKeyStoresTheKeyOrWaits := by
  refine ⟨decodesAs_maskXS rfl fun _ => decodeWord_of_opF, fun x s => ⟨_, exec_getKey x s, ?answer,
    fun r hr => State.setReg_reg_other s.tookKey _ hr, rfl, rfl, rfl⟩⟩
  case answer =>
    have hx (b : Byte) : (s.tookKey.setReg x b).reg x = b := State.setReg_reg_same _ x b
    cases Config.key s.keyQueries with
    | some c => exact ⟨(congrArg BitVec.toNat (hx (keyByte c))).trans (keyByte_toNat c), rfl⟩
    | none => exact ⟨hx (s.reg x), rfl⟩

end Sys2Proof.Machine
end

section
/-! AddI, FontChar and Random (43_immediate_index.md R153, R155, R157). -/

namespace Sys2Proof.Machine

/-- Settles O38: family F of the decoder; the sum in `I`, and the one write of VF. -/
theorem addISetsVFOnOverflowOnly : Obligations.AddISetsVFOnOverflowOnly := by
  refine ⟨decodesAs_maskXS rfl fun _ => decodeWord_of_opF, fun x s => ?_⟩
  have hsum : (s.regI + zextByte (s.reg x)).toNat = (s.regI.toNat + (s.reg x).toNat) % 65536 := by
    rw [BitVec.toNat_add, zextByte_toNat]
  have hflag : ((s.setI (s.regI + zextByte (s.reg x))).setReg vf (addIFlag x s)).reg vf = addIFlag x s :=
    State.setReg_reg_same _ vf _
  exact ⟨_, exec_addI x s, hsum, hflag, fun r hr => State.setReg_reg_other (s.setI _) _ hr, rfl, rfl⟩

/-- Settles O39: family F of the decoder; the glyph address of the largest Vx fits `I`. -/
theorem fontCharComputesTheGlyphAddress : Obligations.FontCharComputesTheGlyphAddress := by
  refine ⟨decodesAs_maskXS rfl fun _ => decodeWord_of_opF, fun x s => ?_⟩
  have hglyph : (BitVec.ofNat 16 ((s.reg x).toNat * 5 + 0x50)).toNat = (s.reg x).toNat * 5 + 0x50 := by
    rw [BitVec.toNat_ofNat]
    omega
  exact ⟨_, exec_fontChar x s, hglyph, hglyph.trans_le (by omega), fun _ => rfl, rfl, rfl⟩

/-- Settles O40: family C of the decoder, and one write of Vx with the masked RAND byte. -/
theorem randomMasksOneRandomByte : Obligations.RandomMasksOneRandomByte := by
  refine ⟨decodesAs_maskA rfl fun _ => decodeWord_of_opC, fun x kk s => ?_⟩
  have hx : (s.tookRand.setReg x (Config.rand s.randDraws &&& kk)).reg x = Config.rand s.randDraws &&& kk :=
    State.setReg_reg_same _ x _
  exact ⟨_, exec_random x kk s, fun b => (congrArg (·.getLsbD b) hx).trans BitVec.getLsbD_and,
    fun r hr => State.setReg_reg_other s.tookRand _ hr, rfl, rfl, rfl⟩

end Sys2Proof.Machine
end

section
/-! The flag instructions (45_alu.md R194 to R199): the result goes to Vx, then the flag to VF. -/

namespace Sys2Proof.Machine

theorem flagByte_decide (p : Prop) [Decidable p] : flagByte (decide p) = if p then 1 else 0 := by
  simp only [flagByte, decide_eq_true_eq]

/-- A flag that is a bit of a byte, as a number. -/
theorem flagByte_getLsbD_toNat (a : Byte) (i : Nat) : (flagByte (a.getLsbD i)).toNat = a.toNat / 2 ^ i % 2 := by
  have hflag (f : Bool) : (flagByte f).toNat = f.toNat := by cases f <;> rfl
  rw [hflag, BitVec.getLsbD, Nat.toNat_testBit]

/-- A flag instruction leaves the flag in VF, also when x = F, and for every other x the result in Vx. -/
theorem exists_complete_setResultAndFlag (x : RegIdx) (b : Byte) (f : Bool) (s : State) :
    ∃ t, complete .noSignal (s.setResultAndFlag x b f) = .next t ∧ t.reg 0xF = flagByte f ∧ (x ≠ 0xF → t.reg x = b) ∧
      (∀ r, r ≠ x → r ≠ 0xF → t.reg r = s.reg r) ∧ t.status = s.status ∧ t.signal = some .noSignal := by
  have hreg := State.setResultAndFlag_reg s x (b := b) (f := f)
  exact ⟨_, rfl, (hreg 0xF).trans (if_pos rfl), fun hx => (hreg x).trans ((if_neg hx).trans (if_pos rfl)),
    fun r hr hr' => (hreg r).trans ((if_neg hr').trans (if_neg hr)), rfl, rfl⟩

/-- Settles O46: family 8 of the decoder; the sum, and its carry. -/
theorem addRegLeavesSumAndCarry : Obligations.AddRegLeavesSumAndCarry := by
  refine ⟨decodesAs_maskXYS rfl rfl fun _ => decodeWord_of_op8, fun x y s => ?_⟩
  rw [exec_addReg]
  obtain ⟨t, ht, hflag, hx, hrest⟩ := exists_complete_setResultAndFlag x (s.reg x + s.reg y) (carry (s.reg x) (s.reg y)) s
  exact ⟨t, ht, hflag.trans (flagByte_decide _), fun h => by rw [hx h, BitVec.toNat_add], hrest⟩

theorem sub_toNat_eq_emod (a b : Byte) : ((a - b).toNat : Int) = (a.toNat - b.toNat : Int) % 256 := by
  rw [BitVec.toNat_sub]
  omega

/-- A subtraction completes with the difference in Vx and the no-borrow flag in VF. -/
theorem exists_complete_sub (x : RegIdx) (a b : Byte) (s : State) :
    ∃ t, complete .noSignal (s.setResultAndFlag x (a - b) (noBorrow a b)) = .next t ∧
      t.reg 0xF = (if b.toNat ≤ a.toNat then 1 else 0) ∧
      (x ≠ 0xF → ((t.reg x).toNat : Int) = (a.toNat - b.toNat : Int) % 256) ∧
      (∀ r, r ≠ x → r ≠ 0xF → t.reg r = s.reg r) ∧ t.status = s.status ∧ t.signal = some .noSignal := by
  obtain ⟨t, ht, hflag, hx, hrest⟩ := exists_complete_setResultAndFlag x (a - b) (noBorrow a b) s
  exact ⟨t, ht, hflag.trans (flagByte_decide _), fun h => by rw [hx h, sub_toNat_eq_emod], hrest⟩

/-- Settles O47: family 8 of the decoder at two selectors; the same subtraction with Vx and Vy in either order. -/
theorem subtractionsLeaveDifferenceAndNoBorrow : Obligations.SubtractionsLeaveDifferenceAndNoBorrow := by
  refine ⟨decodesAs_maskXYS rfl rfl fun _ => decodeWord_of_op8, decodesAs_maskXYS rfl rfl fun _ => decodeWord_of_op8,
    fun x y s => ?_⟩
  rw [exec_subVYFromVX, exec_subVXFromVY]
  exact ⟨exists_complete_sub x (s.reg x) (s.reg y) s, exists_complete_sub x (s.reg y) (s.reg x) s⟩

/-- Settles O48: family 8 of the decoder at two selectors; Vx halved with its bit 0, and doubled with its bit 7. -/
theorem shiftsMoveVxByOneBit : Obligations.ShiftsMoveVxByOneBit := by
  refine ⟨decodesAs_maskXYS rfl rfl fun _ => decodeWord_of_op8, decodesAs_maskXYS rfl rfl fun _ => decodeWord_of_op8,
    fun x y s => ⟨?right, ?left⟩⟩
  case right =>
    rw [exec_shiftRight]
    obtain ⟨t, ht, hflag, hx, hrest⟩ :=
      exists_complete_setResultAndFlag x (s.reg x >>> 1) (bitOutRight (s.reg x)) s
    have hbit : (t.reg 0xF).toNat = (s.reg x).toNat % 2 := by
      rw [hflag, bitOutRight, flagByte_getLsbD_toNat, pow_zero, Nat.div_one]
    have hhalf (h : x ≠ 0xF) : (t.reg x).toNat = (s.reg x).toNat / 2 := by
      rw [hx h, BitVec.toNat_ushiftRight, Nat.shiftRight_one]
    exact ⟨t, ht, hbit, hhalf, hrest⟩
  case left =>
    rw [exec_shiftLeft]
    obtain ⟨t, ht, hflag, hx, hrest⟩ := exists_complete_setResultAndFlag x (s.reg x <<< 1) (bitOutLeft (s.reg x)) s
    have hbit : (t.reg 0xF).toNat = (s.reg x).toNat / 128 := by
      rw [hflag, bitOutLeft, flagByte_getLsbD_toNat]
      omega
    have hdouble (h : x ≠ 0xF) : (t.reg x).toNat = (s.reg x).toNat * 2 % 256 := by
      rw [hx h, BitVec.toNat_shiftLeft, Nat.shiftLeft_eq, pow_one]
    exact ⟨t, ht, hbit, hdouble, hrest⟩

end Sys2Proof.Machine
end

section
/-! Draw: which pixels the sprite toggles, and when it collides (44_display.md R171 to R174). -/

namespace Sys2Proof.Machine

/-- The sprite bit of the statements is that of the blit, read from the bytes that `I` addresses. -/
theorem spriteBit_memRead (s : State) (x y : RegIdx) (n : Nibble) (r c : Nat) :
    spriteBit ((s.reg x).toNat % 64) ((s.reg y).toNat % 32) (memRead s.mem s.regI.toNat n.toNat) r c =
      spriteBitAt s x y n r c := by
  simp only [spriteBit, spriteBitAt, memRead_length]
  by_cases hrow : r - (s.reg y).toNat % 32 < n.toNat
  · rw [List.getD_eq_getElem _ _ (by rwa [memRead_length]), memRead_getElem]
  · have hoff : ¬((s.reg y).toNat % 32 ≤ r ∧ r < (s.reg y).toNat % 32 + n.toNat ∧
        (s.reg x).toNat % 64 ≤ c ∧ c < (s.reg x).toNat % 64 + 8) := by omega
    simp only [decide_eq_false hoff, Bool.false_and]

theorem drawBlit_pixel (x y : RegIdx) (n : Nibble) (s : State) {r c : Nat} (hr : r < 32) (hc : c < 64) :
    pixel (drawBlit x y n s).1 r c = (pixel s.fb r c ^^ spriteBitAt s x y n r c) := by
  rw [drawBlit, blit_pixel _ _ _ _ r c hr hc, spriteBit_memRead]

/-- The blit collides exactly when some pixel of the grid goes from 1 to 0. -/
theorem drawBlit_flag (x y : RegIdx) (n : Nibble) (s : State) : (drawBlit x y n s).2 = true ↔
    ∃ r c, r < 32 ∧ c < 64 ∧ pixel s.fb r c = true ∧ pixel (drawBlit x y n s).1 r c = false := by
  rw [drawBlit, blit_flag, ← drawBlit]
  refine exists_congr fun r => exists_congr fun c => and_congr_right fun hr => and_congr_right fun hc => ?_
  rw [drawBlit_pixel x y n s hr hc, spriteBit_memRead]
  cases pixel s.fb r c <;> cases spriteBitAt s x y n r c <;> decide

/-- Settles O42: family D of the decoder, the pixels of the blit, and the one write of a register, VF. -/
theorem drawTogglesTheSpritePixels : Obligations.DrawTogglesTheSpritePixels :=
  ⟨decodesAs_maskA rfl fun _ => decodeWord_of_opD, fun x y n s hfits =>
    ⟨_, exec_draw_of_blockFits x y hfits, fun _ _ hr hc => drawBlit_pixel x y n s hr hc, rfl,
      fun _ hr => State.setReg_reg_other (s.setFb _) _ hr, rfl⟩⟩

/-- Settles O43: a pixel is XORed with its sprite bit, and VF is written last with the collision flag. -/
theorem drawSetsVFExactlyOnCollision : Obligations.DrawSetsVFExactlyOnCollision := by
  intro x y n s hfits
  have hvf : ((s.setFb (drawBlit x y n s).1).setReg vf (flagByte (drawBlit x y n s).2)).reg vf =
      flagByte (drawBlit x y n s).2 := State.setReg_reg_same _ vf _
  refine ⟨_, exec_draw_of_blockFits x y hfits, fun r c hr hc hbit => ?set, fun r c hr hc hbit => ?clear,
    fun hcollides => ?collides, fun hnone => ?none⟩
  case set => exact (drawBlit_pixel x y n s hr hc).trans (by rw [hbit, Bool.xor_true])
  case clear => exact (drawBlit_pixel x y n s hr hc).trans (by rw [hbit, Bool.xor_false])
  case collides => exact hvf.trans (by rw [(drawBlit_flag x y n s).2 hcollides]; rfl)
  case none =>
    have hflag : (drawBlit x y n s).2 = false := Bool.eq_false_iff.2 fun h => hnone ((drawBlit_flag x y n s).1 h)
    exact hvf.trans (by rw [hflag]; rfl)

end Sys2Proof.Machine
end

section
/-! The memory-block transfers inside the address space (46_memory_timers.md R210 to R212), and the fetch of a word that
StoreRegs wrote (20_memory.md R62). -/

namespace Sys2Proof.Machine

theorem blockEnd_le {s : State} {n : Nat} (h : BlockFits s (n + 1)) : s.regI.toNat + (n + 1) ≤ 4096 := by
  have hlast := h n (Nat.lt_succ_self n)
  omega

/-- The digits of a byte as numbers. -/
theorem bcdDigits_toNat (b : Byte) :
    (bcdDigits b).map BitVec.toNat = [b.toNat / 100, b.toNat / 10 % 10, b.toNat % 10] := by
  have hhundreds : b.toNat / 100 < 2 ^ 8 := by omega
  have htens : b.toNat / 10 % 10 < 2 ^ 8 := by omega
  have hones : b.toNat % 10 < 2 ^ 8 := by omega
  simp only [bcdDigits, List.map_cons, List.map_nil, BitVec.toNat_ofNat, Nat.mod_eq_of_lt hhundreds,
    Nat.mod_eq_of_lt htens, Nat.mod_eq_of_lt hones]

/-- Settles O50: family F of the decoder, and the three digits read back from the block. -/
theorem bcdConvertWritesThreeDigits : Obligations.BcdConvertWritesThreeDigits := by
  refine ⟨decodesAs_maskXS rfl fun _ => decodeWord_of_opF, fun x s hm hfits => ?_⟩
  have hread (k : Nat) (hk : k < 3) :
      (memReadByte (memWrite s.mem s.regI.toNat (bcdDigits (s.reg x))) (s.regI.toNat + k)).toNat =
        [(s.reg x).toNat / 100, (s.reg x).toNat / 10 % 10, (s.reg x).toNat % 10][k] := by
    rw [memReadByte_memWrite_inside hm _ (by rwa [bcdDigits_length]) (blockEnd_le hfits)]
    simp only [← bcdDigits_toNat, List.getElem_map]
  have h0 := hread 0 (by decide)
  have h1 := hread 1 (by decide)
  have h2 := hread 2 (by decide)
  simp only [List.getElem_cons_zero, List.getElem_cons_succ, Nat.add_zero] at h0 h1 h2
  refine ⟨_, exec_bcdConvert_of_blockFits x hfits, ?sum, ?tens, ?ones, rfl, fun _ => rfl, rfl, rfl⟩
  all_goals
    simp only [State.emit_mem, State.setMem_mem, h0, h1, h2]
    omega

/-- The k-th byte of the block that StoreRegs writes is V[k]. -/
theorem memReadByte_storeRegs {s : State} {x : RegIdx} (hm : Memory.wf s.mem) (hfits : BlockFits s (x.toNat + 1)) {k : Nat}
    (hk : k ≤ x.toNat) :
    memReadByte (memWrite s.mem s.regI.toNat (s.regsUpTo x)) (s.regI.toNat + k) = s.reg (BitVec.ofNat 4 k) := by
  have hlen := regsUpTo_length s x
  rw [memReadByte_memWrite_inside hm _ (by omega) (by rw [hlen]; exact blockEnd_le hfits)]
  simp only [State.regsUpTo, List.getElem_map, List.getElem_range]

/-- Settles O51: family F of the decoder, and the block read back. -/
theorem storeRegsCopiesV0ToVxIntoMemory : Obligations.StoreRegsCopiesV0ToVxIntoMemory := by
  refine ⟨decodesAs_maskXS rfl fun _ => decodeWord_of_opF, fun x s hm hfits => ?_⟩
  have hexec := exec_storeRegs_of_blockFits hfits
  have hbytes (k : RegIdx) (hk : k.toNat ≤ x.toNat) :
      memReadByte (memWrite s.mem s.regI.toNat (s.regsUpTo x)) (s.regI.toNat + k.toNat) = s.reg k := by
    rw [memReadByte_storeRegs hm hfits hk, BitVec.ofNat_toNat, BitVec.setWidth_eq]
  exact ⟨_, hexec, hbytes, sameMemOutside_of_storeRegs hexec, rfl, fun _ => rfl, rfl, rfl⟩

/-- Settles O52: family F of the decoder, and the registers after the block was loaded. -/
theorem loadRegsCopiesMemoryIntoV0ToVx : Obligations.LoadRegsCopiesMemoryIntoV0ToVx := by
  refine ⟨decodesAs_maskXS rfl fun _ => decodeWord_of_opF, fun x s hfits =>
    ⟨_, exec_loadRegs_of_blockFits hfits, fun k => ?regs, ?index, ?status, State.emit_signal ..⟩⟩
  case regs => simp only [State.emit_reg, reg_setRegsFrom_memRead, Nat.lt_succ_iff]
  case index => rw [State.emit_regI, State.setRegsFrom_regI]
  case status => rw [State.emit_status, State.setRegsFrom_status]

/-- A step that fetches an instruction's encoding, and whose instruction completes in a Running state, ends with the timer
check. -/
theorem step_of_fetches_complete {s u : State} {i : Instr} {sig : Signal} (h : Fetches s (encodeWord i))
    (hexec : exec i (advance s) = complete sig u) (hrun : u.status = .running) :
    step s = .next (timerCheck (u.emit sig)) :=
  calc step s
    _ = finishCycle (execDecoded (encodeWord i) (.variant i) (advance s)) := by
      rw [step_of_fetches h, decodeWord_encodeWord]
    _ = finishCycle (complete sig u) := congrArg finishCycle hexec
    _ = .next (timerCheck (u.emit sig)) := finishCycle_complete hrun sig

/-- Settles O11: the step stores the block, so the two bytes at the advanced `pc` are the registers stored there. -/
theorem storeIsSeenByTheNextFetch : Obligations.StoreIsSeenByTheNextFetch := by
  intro s x k hm hfetch hfits haddr hk
  have ⟨hrun, hinside, _⟩ := hfetch
  have hexec := exec_storeRegs_of_blockFits (s := advance s) hfits
  refine ⟨_, step_of_fetches_complete hfetch hexec hrun, rfl, ?_⟩
  have hpc : (s.pc + 2).toNat = s.regI.toNat + k := (pc_add_two_toNat hinside).trans haddr
  change memReadWord (memWrite s.mem s.regI.toNat (s.regsUpTo x)) (s.pc + 2).toNat = _
  rw [memReadWord, wordOfBytes, hpc, Nat.add_assoc, memReadByte_storeRegs hm hfits (by omega),
    memReadByte_storeRegs hm hfits (by omega)]

end Sys2Proof.Machine
end
